-- ==== Sys2Proof/Word.lean ====
section
/-! DEFINITION. The two word types of the block (00_scope.md R4: ADDR_BITS = 16, DATA_BITS = 8). -/

namespace Sys2Proof

/-- The bus data, one byte of `ram` or `rom` (R4, R37). -/
abbrev Byte := BitVec 8

/-- The bus address, `addr: u16` (R4, R30). -/
abbrev Addr := BitVec 16

/-- A 5-bit value: the accumulator, a committed register value, a CHR latch (R13, R15). -/
abbrev Reg5 := BitVec 5

end Sys2Proof
end

