-- ==== Sys2Proof/Config.lean ====
section
/-! DEFINITION. The implementation parameters of 00_scope.md R4 that are fixed for this hardware, the
enumerations they range over, and the free values that stand for the parameters the spec leaves OPEN.
`BANK_RESET` (D2) and `prgModeOf` (D1) are parameters too: they stand in Machine/Operands.lean. -/

namespace Sys2Proof

/-- The three PRG modes (R16). "First" and "Last" name the bank that is FIXED, not the window that
switches (R9). -/
inductive PrgMode where
  /-- both windows follow `bankSelect` as one 32 KiB pair (R84) -/
  | switchBoth
  /-- window 0 fixed to the first bank, window 1 follows `bankSelect` (R85) -/
  | switchFirst
  /-- window 0 follows `bankSelect`, window 1 fixed to the last bank (R86) -/
  | switchLast
  deriving DecidableEq, Repr

/-- `RAM_ABSENT_WRITE`: what a RAM-window write does on a cartridge without RAM (R4, R72). -/
inductive AbsentWrite where
  /-- it answers `Ok` and changes nothing -/
  | noop
  /-- it answers `OutOfBounds` and changes nothing -/
  | error
  deriving DecidableEq, Repr

namespace Config

/-- `BANK_SIZE`: one ROM bank and one ROM window, 16 KiB (R4). -/
def bankSize : Nat := 16384

/-- `RAM_SIZE`: 8 KiB, the size of the RAM window (R4, R5). -/
def ramSize : Nat := 8192

/-- The lowest address the block answers, and the base of the RAM window (R4, R31). -/
def ramStart : Nat := 0x6000

/-- The base of ROM window 0 and of the register port (R4, R31). -/
def window0Start : Nat := 0x8000

/-- The base of ROM window 1 (R4, R31). -/
def window1Start : Nat := 0xC000

/-- `RAM_PRESENT` of this hardware (R4, D10; log 15). -/
def ramPresent : Bool := true

/-- `RAM_ABSENT_WRITE`'s default (R4, R72; log 15). -/
def ramAbsentWrite : AbsentWrite := .noop

/-- FREE VALUE (log 5): `lastBankIndex = N - 1` of the cartridge inserted at reset. The spec leaves `N`
OPEN, "any integer `N >= 1`" (R4). -/
opaque lastBankIndex : Nat

/-- `N`, the number of 16 KiB banks of the cartridge inserted at reset (R4, R12; log 5). -/
def romBanks : Nat := lastBankIndex + 1

/-- FREE VALUE (log 5): the ROM byte at each offset of the cartridge inserted at reset. OPEN (R4). -/
opaque romByte : Nat → Byte

/-- FREE VALUE (log 6): `RAM_INIT`, the RAM byte at each offset at power-on. OPEN, "any value, fixed
for a run" (R4, R27, U6). -/
opaque ramInit : Nat → Byte

@[simp] theorem bankSize_eq : bankSize = 16384 := rfl
@[simp] theorem ramSize_eq : ramSize = 8192 := rfl
@[simp] theorem ramStart_eq : ramStart = 0x6000 := rfl
@[simp] theorem window0Start_eq : window0Start = 0x8000 := rfl
@[simp] theorem window1Start_eq : window1Start = 0xC000 := rfl
@[simp] theorem ramPresent_eq : ramPresent = true := rfl
@[simp] theorem ramAbsentWrite_eq : ramAbsentWrite = .noop := rfl
theorem romBanks_pos : 1 ≤ romBanks := Nat.le_add_left 1 lastBankIndex

end Config
end Sys2Proof
end

