-- ==== Sys2Proof/Machine/Operands.lean ====
section
/-! DEFINITION. Every operand form of the block: the address fields (20_memory.md R32, 30_encoding.md
R51), the offsets (R34, R35), the serial data byte and the shift (R53, R55, R75), the fields of a
committed value (R56 to R59), and the bank-base function (43_bank_select.md R83 to R87). -/

namespace Sys2Proof.Machine

/-! ### The address -/

/-- `addr[15:13]`, the region (R51): 0, 1, 2 below the window; 3 the RAM window; 4 to 7 ROM on a read,
the register port on a write. -/
def regionOf (addr : Addr) : BitVec 3 := addr.extractLsb' 13 3

/-- `addr[14:13]`, the register select of a committing write (R51, R52). -/
def registerSelect (addr : Addr) : BitVec 2 := addr.extractLsb' 13 2

/-- "effective offset = `(addr - $6000) mod ram.length`" for a RAM of `size` bytes (R34). -/
def ramOffsetIn (size : Nat) (addr : Addr) : Nat := (addr.toNat - Config.ramStart) % size

/-- The RAM offset of this hardware, `RAM_SIZE = 8192` (R34). -/
def ramOffset (addr : Addr) : Nat := ramOffsetIn Config.ramSize addr

/-- The offset within ROM window 0, `(addr - $8000) mod 16384` (R35). -/
def window0Offset (addr : Addr) : Nat := (addr.toNat - Config.window0Start) % Config.bankSize

/-- The offset within ROM window 1, `(addr - $C000) mod 16384` (R35). -/
def window1Offset (addr : Addr) : Nat := (addr.toNat - Config.window1Start) % Config.bankSize

/-! ### The serial data byte and the accumulator -/

/-- `value[0]`, the bit a shift write shifts in (R53). -/
def dataBit (value : Byte) : BitVec 1 := value.extractLsb' 0 1

/-- `(accum >> 1) | (value[0] << 4)` (R55, R75, R76): the new bit enters at bit 4. The amount 1 is
DEDUCED by the spec itself (R55, N1; log 24). -/
def shiftIn (accum : Reg5) (value : Byte) : Reg5 :=
  (accum >>> 1) ||| ((dataBit value).setWidth 5 <<< 4)

/-! ### The fields of a committed value `B` -/

/-- `B[4]`, CHR mode (R56). -/
def chrModeField (b : Reg5) : BitVec 1 := b.extractLsb' 4 1

/-- `B[3:2]`, the PRG mode bits (R56). -/
def prgModeField (b : Reg5) : BitVec 2 := b.extractLsb' 2 2

/-- `B[1:0]`, mirroring, placed by elimination (R56, D20; log 20). -/
def mirrorField (b : Reg5) : BitVec 2 := b.extractLsb' 0 2

/-- `B[3:0]`, the PRG bank; `B[4]` is not kept (R58, D9; log 14). -/
def prgBankField (b : Reg5) : BitVec 4 := b.extractLsb' 0 4

/-- The configuration function `prgModeOf` (R57). PRESUMED (D1, from general knowledge; log 8): 0 and 1
give `SwitchBoth`, 2 `SwitchFirst`, 3 `SwitchLast`. -/
def prgModeOf (bits : BitVec 2) : PrgMode :=
  match bits.toNat with
  | 2 => .switchFirst
  | 3 => .switchLast
  | _ => .switchBoth

/-! ### Bank arithmetic -/

/-- `BANK_RESET`, the value `bankSelect` takes at power-on and at a reset write (R4). DESIGN CHOICE of
the spec (D2; log 9). -/
def bankReset : BitVec 4 := 0

/-- The mode at power-on (R27, D3; log 10) and after a reset write (R74). -/
def modeReset : PrgMode := .switchLast

/-- `bankSelect & ~1` at the width of `bankSelect` (R84, R88 (c)). -/
def evenBank (b : BitVec 4) : BitVec 4 := b &&& 0b1110#4

/-- The base of bank `k` on a ROM of `n` banks: the index is reduced `mod N` before the multiplication
(R87, D5; log 11). -/
def bankBase (n k : Nat) : Nat := (k % n) * Config.bankSize

/-- `bases(mode, b)` on a ROM of `n` banks (R83): R84, R85 and R86, one arm each. -/
def bases (n : Nat) : PrgMode → BitVec 4 → Nat × Nat
  | .switchBoth, b => (bankBase n (evenBank b).toNat, bankBase n ((evenBank b).toNat + 1))
  | .switchFirst, b => (0, bankBase n b.toNat)
  | .switchLast, b => (bankBase n b.toNat, (n - 1) * Config.bankSize)

end Sys2Proof.Machine
end

