-- ==== Sys2Proof/Machine/Flags.lean ====
section
/-! DEFINITION. The block has no flags, condition codes or status bits (10_state.md R24). What it tests
of a transaction, in the order of 60_exceptions.md R97, and latches nowhere, stands here. -/

namespace Sys2Proof.Machine

/-- The first test of R97: `addr < $6000`, that is `addr[15:13]` in 000, 001, 010 (R32, R51). -/
def belowWindow (addr : Addr) : Bool := (regionOf addr).toNat < 3

/-- The second test of R97: the RAM window, `addr[15:13] = 011` (R32, R51). -/
def inRamWindow (addr : Addr) : Bool := (regionOf addr).toNat = 3

/-- `addr[14]` in `$8000–$FFFF`: ROM window 1, else window 0 (R51). -/
def inWindow1 (addr : Addr) : Bool := addr.getLsbD 14

/-- The third test of R97: `value[7]`, a reset write (R53, R73). -/
def isResetWrite (value : Byte) : Bool := value.getLsbD 7

/-- The last test of R97: this shift write is the fifth, `count = 4` before it (R73, R76). -/
def isFifthWrite (count : Fin 5) : Bool := count.val = 4

end Sys2Proof.Machine
end

