-- ==== Sys2Proof/Syntax.lean ====
section
/-! DEFINITION. The bus transaction (30_encoding.md R50) and the twelve operations it decodes to
(R60), which stand in place of instructions: one constructor per mnemonic of spec/opcode_table.json,
with the operands its rule gives it. -/

namespace Sys2Proof

/-- The direction of a transaction (R50). -/
inductive Rw where
  | read
  | write
  deriving DecidableEq, Repr

/-- One bus transaction `(rw, addr, value)` (R6, R50). A read has no data byte; its `value` is ignored
and written as 0. -/
structure Txn where
  rw    : Rw
  addr  : Addr
  value : Byte
  deriving DecidableEq, Repr

/-- `R $aaaa` (R63). -/
def Txn.rd (addr : Addr) : Txn := ⟨.read, addr, 0⟩

/-- `W $aaaa,$vv` (R63). -/
def Txn.wr (addr : Addr) (value : Byte) : Txn := ⟨.write, addr, value⟩

/-- The twelve operations (R60). The operands are the whole address and, for a write, the whole data
byte, so that the ignored bits (R62) are still there to be ignored. -/
inductive Instr where
  /-- READ_OOB, R65 -/
  | readOob (addr : Addr)
  /-- READ_RAM, R66 -/
  | readRam (addr : Addr)
  /-- READ_ROM0, R67 -/
  | readRom0 (addr : Addr)
  /-- READ_ROM1, R68 -/
  | readRom1 (addr : Addr)
  /-- WRITE_OOB, R70 -/
  | writeOob (addr : Addr) (value : Byte)
  /-- WRITE_RAM, R71 and R72 -/
  | writeRam (addr : Addr) (value : Byte)
  /-- WRITE_RESET, R74 -/
  | writeReset (addr : Addr) (value : Byte)
  /-- WRITE_SHIFT, R75 -/
  | writeShift (addr : Addr) (value : Byte)
  /-- COMMIT_CTRL, R77 -/
  | commitCtrl (addr : Addr) (value : Byte)
  /-- COMMIT_CHR0, R78 -/
  | commitChr0 (addr : Addr) (value : Byte)
  /-- COMMIT_CHR1, R79 -/
  | commitChr1 (addr : Addr) (value : Byte)
  /-- COMMIT_PRG, R80 -/
  | commitPrg (addr : Addr) (value : Byte)
  deriving DecidableEq, Repr

/-- The operation's name in R60 and in spec/opcode_table.json. -/
def Instr.mnemonic : Instr → String
  | .readOob _ => "READ_OOB"
  | .readRam _ => "READ_RAM"
  | .readRom0 _ => "READ_ROM0"
  | .readRom1 _ => "READ_ROM1"
  | .writeOob _ _ => "WRITE_OOB"
  | .writeRam _ _ => "WRITE_RAM"
  | .writeReset _ _ => "WRITE_RESET"
  | .writeShift _ _ => "WRITE_SHIFT"
  | .commitCtrl _ _ => "COMMIT_CTRL"
  | .commitChr0 _ _ => "COMMIT_CHR0"
  | .commitChr1 _ _ => "COMMIT_CHR1"
  | .commitPrg _ _ => "COMMIT_PRG"

/-- The transaction an operation is (R60): its direction, address and data byte. -/
def Instr.txn : Instr → Txn
  | .readOob a | .readRam a | .readRom0 a | .readRom1 a => Txn.rd a
  | .writeOob a v | .writeRam a v | .writeReset a v | .writeShift a v
  | .commitCtrl a v | .commitChr0 a v | .commitChr1 a v | .commitPrg a v => Txn.wr a v

end Sys2Proof
end

