-- ==== Sys2Proof/WellFormed.lean ====
section
/-! DEFINITION. When an operation's operands are the ones R60 gives it (the address and data columns),
and in which states it runs (the state column). -/

namespace Sys2Proof

/-- The address and data columns of R60. -/
def Instr.wellFormed : Instr → Bool
  | .readOob a => a.toNat < 0x6000
  | .readRam a => 0x6000 ≤ a.toNat && a.toNat < 0x8000
  | .readRom0 a => 0x8000 ≤ a.toNat && a.toNat < 0xC000
  | .readRom1 a => 0xC000 ≤ a.toNat
  | .writeOob a _ => a.toNat < 0x6000
  | .writeRam a _ => 0x6000 ≤ a.toNat && a.toNat < 0x8000
  | .writeReset a v => 0x8000 ≤ a.toNat && v.toNat ≥ 0x80
  | .writeShift a v => 0x8000 ≤ a.toNat && v.toNat < 0x80
  | .commitCtrl a v => 0x8000 ≤ a.toNat && a.toNat < 0xA000 && v.toNat < 0x80
  | .commitChr0 a v => 0xA000 ≤ a.toNat && a.toNat < 0xC000 && v.toNat < 0x80
  | .commitChr1 a v => 0xC000 ≤ a.toNat && a.toNat < 0xE000 && v.toNat < 0x80
  | .commitPrg a v => 0xE000 ≤ a.toNat && v.toNat < 0x80

/-- The state column of R60: the values of `count` before the transaction at which the operation is
the one its bits stand for. -/
def Instr.runsAt : Instr → Fin 5 → Bool
  | .readOob _, _ => true
  | .readRam _, _ => true
  | .readRom0 _, _ => true
  | .readRom1 _, _ => true
  | .writeOob _ _, _ => true
  | .writeRam _ _, _ => true
  | .writeReset _ _, _ => true
  | .writeShift _ _, c => c.val < 4
  | .commitCtrl _ _, c => c.val = 4
  | .commitChr0 _ _, c => c.val = 4
  | .commitChr1 _ _, c => c.val = 4
  | .commitPrg _ _, c => c.val = 4

end Sys2Proof
end

