-- ==== Sys2Proof/Decode.lean ====
section
/-! DEFINITION. The decoder (30_encoding.md R50, R51, R60, R61), the encoder, the operation table of
spec/opcode_table.json as data, and the pseudo-operations of R64. The decode takes `count` as an
input: WRITE_SHIFT and the four COMMIT rows match the same bits (R60, R61; log 22). -/

namespace Sys2Proof

open Sys2Proof.Machine

/-- The operation a register-port write is (R73): bit 7 first, then `count`, then `addr[14:13]`. -/
def decodeSerial (count : Fin 5) (addr : Addr) (value : Byte) : Instr :=
  if isResetWrite value then .writeReset addr value
  else if isFifthWrite count then
    match (registerSelect addr).toNat with
    | 0 => .commitCtrl addr value
    | 1 => .commitChr0 addr value
    | 2 => .commitChr1 addr value
    | _ => .commitPrg addr value
  else .writeShift addr value

/-- The dispatch of MemRead (40_read_path.md). -/
def decodeRead (addr : Addr) : Instr :=
  if belowWindow addr then .readOob addr
  else if inRamWindow addr then .readRam addr
  else if inWindow1 addr then .readRom1 addr
  else .readRom0 addr

/-- The dispatch of MemWrite (41_write_path.md). -/
def decodeWrite (count : Fin 5) (addr : Addr) (value : Byte) : Instr :=
  if belowWindow addr then .writeOob addr value
  else if inRamWindow addr then .writeRam addr value
  else decodeSerial count addr value

/-- Every transaction is exactly one of the twelve operations, given `count` (R60, R61). -/
def decode (count : Fin 5) (t : Txn) : Instr :=
  match t.rw with
  | .read => decodeRead t.addr
  | .write => decodeWrite count t.addr t.value

/-- The one reason a number is no transaction word. -/
inductive DecodeError where
  /-- the number has a bit above bit 24: T is 25 bits wide (R50; log 21) -/
  | widerThanTransaction
  deriving DecidableEq, Repr

/-- The fields of a word `T` (R50): bit 24 `rw`, bits 23:8 `addr`, bits 7:0 `value`. -/
def Txn.ofWord (w : Nat) : Except DecodeError Txn :=
  if w < 2 ^ 25 then
    .ok ⟨if w / 2 ^ 24 = 1 then .write else .read, BitVec.ofNat 16 (w / 2 ^ 8), BitVec.ofNat 8 w⟩
  else .error .widerThanTransaction

/-- The operation a word is, given `count`; a number that is no word is rejected by name. -/
def decodeWord (count : Fin 5) (w : Nat) : Except DecodeError Instr :=
  match Txn.ofWord w with
  | .ok t => .ok (decode count t)
  | .error e => .error e

/-- The transaction in a table word of `nbits` bits, if it is one. -/
def txnOfTableWord (nbits w : Nat) : Option Txn :=
  match Txn.ofWord (w % 2 ^ nbits) with
  | .ok t => some t
  | .error _ => none

/-- The operation the decoder reads from a word numbered as spec/opcode_table.json numbers it, at the
`count` of power-on, 0 (R27). The bits of WRITE_SHIFT and of the COMMIT rows are the same; at `count = 0`
they are WRITE_SHIFT (R60; log 22). -/
def decodeTableWord (nbits w : Nat) : Option Instr :=
  match decodeWord 0 (w % 2 ^ nbits) with
  | .ok i => some i
  | .error _ => none

/-! ### The encoder -/

/-- Bit 24 of `T` (R50): 0 read, 1 write. -/
def Rw.bit : Rw → Nat
  | .read => 0
  | .write => 1

/-- `T = (rw << 24) | (addr << 8) | value` (R50); the three fields do not overlap, so the sum is the or. -/
def Txn.word (t : Txn) : Nat := t.rw.bit * 2 ^ 24 + t.addr.toNat * 2 ^ 8 + t.value.toNat

/-- The word of an operation (R50, R60). -/
def encode (i : Instr) : Nat := i.txn.word

/-! ### spec/opcode_table.json -/

/-- The `state` entry of a row's fields. -/
inductive CountCond where
  | any
  | below4
  | is4
  deriving DecidableEq, Repr

def CountCond.holds : CountCond → Fin 5 → Bool
  | .any, _ => true
  | .below4, c => c.val < 4
  | .is4, c => c.val = 4

/-- One row of the operation table: it applies when `T & mask = match` and its state condition holds
(30_encoding.md, "Conventions of `opcode_table.json`"). -/
structure Row where
  mnemonic : String
  pattern  : Nat
  mask     : Nat
  cond     : CountCond
  deriving DecidableEq, Repr

/-- The 14 rows of spec/opcode_table.json, in its order. -/
def opcodeTable : List Row :=
  [ ⟨"READ_OOB", 0x0000000, 0x1C00000, .any⟩,
    ⟨"READ_OOB", 0x0400000, 0x1E00000, .any⟩,
    ⟨"READ_RAM", 0x0600000, 0x1E00000, .any⟩,
    ⟨"READ_ROM0", 0x0800000, 0x1C00000, .any⟩,
    ⟨"READ_ROM1", 0x0C00000, 0x1C00000, .any⟩,
    ⟨"WRITE_OOB", 0x1000000, 0x1C00000, .any⟩,
    ⟨"WRITE_OOB", 0x1400000, 0x1E00000, .any⟩ ] ++
  [ ⟨"WRITE_RAM", 0x1600000, 0x1E00000, .any⟩,
    ⟨"WRITE_RESET", 0x1800080, 0x1800080, .any⟩,
    ⟨"WRITE_SHIFT", 0x1800000, 0x1800080, .below4⟩,
    ⟨"COMMIT_CTRL", 0x1800000, 0x1E00080, .is4⟩,
    ⟨"COMMIT_CHR0", 0x1A00000, 0x1E00080, .is4⟩,
    ⟨"COMMIT_CHR1", 0x1C00000, 0x1E00080, .is4⟩,
    ⟨"COMMIT_PRG", 0x1E00000, 0x1E00080, .is4⟩ ]

/-- A row applies to a word at a `count`. -/
def Row.applies (r : Row) (count : Fin 5) (w : Nat) : Bool :=
  w &&& r.mask == r.pattern && r.cond.holds count

/-! ### Pseudo-operations -/

/-- `RESET` is `W $8000,$80` (R64). -/
def resetTxns : List Txn := [.wr 0x8000 0x80]

/-- The address `$8000 + r * $2000` of register `r` (R64). -/
def registerAddr (r : Fin 4) : Addr := BitVec.ofNat 16 (0x8000 + r.val * 0x2000)

/-- The data byte, `$00` or `$01`, that shifts in bit `k` of `b` (R64). -/
def loadByte (b : Reg5) (k : Nat) : Byte := if b.getLsbD k then 1 else 0

/-- `LOAD r, B`: five writes to the register's address, bit 0 of `B` first (R55, R64). -/
def loadTxns (r : Fin 4) (b : Reg5) : List Txn :=
  [.wr (registerAddr r) (loadByte b 0), .wr (registerAddr r) (loadByte b 1),
   .wr (registerAddr r) (loadByte b 2), .wr (registerAddr r) (loadByte b 3),
   .wr (registerAddr r) (loadByte b 4)]

end Sys2Proof
end

