-- ==== Sys2Proof/Machine/Memory.lean ====
section
/-! DEFINITION. A memory region (20_memory.md R47): byte-addressable storage with `get` and `set` that
check the bounds, held as a list of cells in one canonical form. The region's length stands beside it. -/

namespace Sys2Proof.Machine

/-- The contents of a region: cells with strictly rising offsets, none of them holding the byte an
unlisted offset reads as. -/
abbrev Memory := List Host.Cell

namespace Memory

/-- What an unlisted offset reads as. DESIGN CHOICE (log 7), of representation only: a canonical list can
hold any contents, and the contents at reset are the free values `Config.ramInit` and `Config.romByte`. -/
def unlisted : Byte := 0

/-- The byte at an offset. -/
def read : Memory → Nat → Byte
  | [], _ => unlisted
  | (a, v) :: m, off => if off = a then v else read m off

/-- The memory with one byte replaced, in canonical form again. -/
def write : Memory → Nat → Byte → Memory
  | [], off, v => if v = unlisted then [] else [(off, v)]
  | (a, w) :: m, off, v =>
    if off < a then (if v = unlisted then (a, w) :: m else (off, v) :: (a, w) :: m)
    else if off = a then (if v = unlisted then m else (off, v) :: m)
    else (a, w) :: write m off v

/-- Canonical form from offset `lo` on. -/
def wfFrom : Nat → Memory → Bool
  | _, [] => true
  | lo, (a, v) :: m => lo ≤ a && v != unlisted && wfFrom (a + 1) m

/-- Canonical form: offsets strictly rise and no cell holds the unlisted byte. -/
def wf (m : Memory) : Bool := wfFrom 0 m

/-- Every listed offset lies in a region of `size` bytes. -/
def within (size : Nat) (m : Memory) : Bool := m.all fun c => c.1 < size

/-- The canonical list of `n` bytes from offset `lo` on, byte `off` being `f off`. -/
def ofFnFrom (f : Nat → Byte) : Nat → Nat → Memory
  | _, 0 => []
  | lo, n + 1 => if f lo = unlisted then ofFnFrom f (lo + 1) n else (lo, f lo) :: ofFnFrom f (lo + 1) n

/-- A region of `size` bytes, byte `off` being `f off`. (Irreducible: the regions at reset are never
unfolded byte by byte; Laws/Memory.lean says what they hold.) -/
@[irreducible] def ofFn (size : Nat) (f : Nat → Byte) : Memory := ofFnFrom f 0 size

/-- The canonical list of a sequence of bytes from offset `lo` on. -/
def ofBytesFrom : Nat → List Byte → Memory
  | _, [] => []
  | lo, v :: vs => if v = unlisted then ofBytesFrom (lo + 1) vs else (lo, v) :: ofBytesFrom (lo + 1) vs

/-- The region that holds exactly these bytes, "offset `i` is byte `i`" (R108). -/
def ofBytes (bytes : List Byte) : Memory := ofBytesFrom 0 bytes

/-- "`get(offset) -> byte | OutOfBounds`" of a region of `size` bytes (R47). -/
def get (size : Nat) (m : Memory) (off : Nat) : Option Byte :=
  if off < size then some (m.read off) else none

/-- "`set(offset, byte) -> () | OutOfBounds`" of a region of `size` bytes (R47). -/
def set (size : Nat) (m : Memory) (off : Nat) (v : Byte) : Option Memory :=
  if off < size then some (m.write off v) else none

end Memory
end Sys2Proof.Machine
end

