-- ==== Sys2Proof/Machine/State.lean ====
section
/-! DEFINITION. The state of the PRG unit (10_state.md R10), the parameters fixed for a run (R26), the
interface to the bus, the state at power-on (R27), and the reasons a step can stop. -/

namespace Sys2Proof.Machine

/-- The parameters fixed for the whole run (R4, R26), held as plain data; no step changes them (log 4). -/
structure Cart where
  /-- `N`, the number of 16 KiB banks (R12) -/
  romBanks       : Nat
  /-- the ROM contents, offsets 0 to `N * 16384 - 1` (R12) -/
  rom            : Memory
  /-- `RAM_PRESENT` (R4, D10) -/
  ramPresent     : Bool
  /-- `RAM_ABSENT_WRITE` (R4, R72) -/
  ramAbsentWrite : AbsentWrite
  /-- is a diagnostic sink attached (R26, R102) -/
  sink           : Bool
  deriving DecidableEq, Repr

/-- The control register's fields (R16 to R18, R56). -/
structure Control where
  prgMode : PrgMode
  chrMode : BitVec 1
  mirror  : BitVec 2
  deriving DecidableEq, Repr

/-- The result of a transaction (60_exceptions.md R90): what the block returns to the bus. -/
inductive Answer where
  /-- `Ok(byte)`, a read -/
  | okByte (v : Byte)
  /-- `Ok`, a write -/
  | ok
  /-- `OutOfBounds`; it carries no payload and latches nothing (R91, R95) -/
  | outOfBounds
  deriving DecidableEq, Repr

/-- The target region of a decode observation (R102). -/
inductive Region where
  | ram
  | rom
  deriving DecidableEq, Repr

/-- The decode observation, "a (virtual address, physical offset, target region, bank index) tuple"
(R102). -/
structure Observation where
  addr   : Addr
  offset : Nat
  region : Region
  bank   : Nat
  deriving DecidableEq, Repr

/-- The machine: the state of R10, the parameters of R26, and the model's interface to the bus. -/
structure State where
  /-- parameters fixed for the run, `rom` among them (R12, R26) -/
  cart        : Cart
  /-- 8192 bytes (R11) -/
  ram         : Memory
  /-- the 5-bit accumulator (R13) -/
  accum       : Reg5
  /-- shift writes since the last commit, reset write or power-on, 0 to 4 (R14; log 23) -/
  count       : Fin 5
  /-- the control register (R16 to R18) -/
  control     : Control
  /-- the PRG bank select, stored as written (R19) -/
  bankSelect  : BitVec 4
  /-- CHR bank latch 0 (R20) -/
  chrBank0    : Reg5
  /-- CHR bank latch 1 (R20) -/
  chrBank1    : Reg5
  /-- byte offset of window 0 into `rom` (R21) -/
  prgBase0    : Nat
  /-- byte offset of window 1 into `rom` (R21) -/
  prgBase1    : Nat
  /-- MODEL's own: the transactions the bus has still to issue, oldest first (R6, R8; log 1) -/
  pending     : List Txn
  /-- MODEL's own: the result of the last transaction (R90; log 3) -/
  answer      : Option Answer
  /-- MODEL's own: the observation the last transaction emitted (R102; log 18) -/
  observation : Option Observation
  deriving DecidableEq, Repr

/-- Why the machine stops. No STEP ever raises one: every transaction ends with an answer (R90). -/
inductive Fault where
  /-- `InvalidRom` (R93): raised by `construct` alone, when the ROM image's length is 0 or no multiple
  of 16384. Safe: it is the spec's own result, and no block exists afterwards. -/
  | invalidRom
  deriving DecidableEq, Repr

/-- Why the model gives an instruction no meaning. -/
inductive Refusal where
  /-- An operation that has no meaning yet, by its mnemonic; raised by `exec`'s refused arms alone. Safe:
  nothing is claimed of it. No arm of `exec` is refused. -/
  | notModelled (mnemonic : String)
  deriving DecidableEq, Repr

namespace State

/-- `ROM_SIZE = N * 16384` (R4, R12). -/
def romSize (s : State) : Nat := s.cart.romBanks * Config.bankSize

/-- The power-on state of a cartridge with the given RAM contents (R27): the registers by D2 and D3
(log 9, log 10), the bases by R21. Nothing is pending and nothing has been answered (log 1, log 3). -/
def powerOn (cart : Cart) (ram : Memory) : State where
  cart := cart
  ram := ram
  accum := 0
  count := 0
  control := ⟨modeReset, 0, 0⟩
  bankSelect := bankReset
  chrBank0 := 0
  chrBank1 := 0
  prgBase0 := (bases cart.romBanks modeReset bankReset).1
  prgBase1 := (bases cart.romBanks modeReset bankReset).2
  pending := []
  answer := none
  observation := none

/-- The machine right after reset: power-on (R27, R104) with the OPEN parameters at their free values
(log 5, log 6), RAM present (log 15) and no diagnostic sink (log 18). -/
def reset : State :=
  powerOn
    ⟨Config.romBanks, Memory.ofFn (Config.romBanks * Config.bankSize) Config.romByte, Config.ramPresent,
      Config.ramAbsentWrite, false⟩
    (Memory.ofFn Config.ramSize Config.ramInit)

end State
end Sys2Proof.Machine
end

