-- ==== Sys2Proof/Machine/Ops.lean ====
section
/-! DEFINITION. The shared operations over the memories, the registers and the bus, each written once.
Taking an error is `raiseOutOfBounds` (60_exceptions.md R95); there is nothing to return from (R96). -/

namespace Sys2Proof.Machine
namespace State

/-! ### The bus -/

/-- The transaction ends with this answer; an attached sink sees the observation, and without a sink
nothing is emitted (R90, R102). -/
def respond (a : Answer) (o : Option Observation) (s : State) : State :=
  { s with answer := some a, observation := bif s.cart.sink then o else none }

/-- `raise OutOfBounds(addr)`: the transaction ends, its result is the error, and nothing else changes:
nothing is saved, masked or latched (R91, R95, D12; log 16). No observation is emitted (D18; log 18). -/
def raiseOutOfBounds (s : State) : State := s.respond .outOfBounds none

/-- The bus queues one more transaction behind those pending (R6; log 1). -/
def issue (t : Txn) (s : State) : State := { s with pending := s.pending ++ [t] }

/-- The bus's next transaction is this one (log 1). -/
def issueNext (t : Txn) (s : State) : State := { s with pending := t :: s.pending }

/-! ### The memories -/

/-- `ram[off]`; none where the region has no byte to give: beyond its length (R47), or with no RAM on
the cartridge (R66, R92; log 15). -/
def ramGet (s : State) (off : Nat) : Option Byte :=
  if s.cart.ramPresent then Memory.get Config.ramSize s.ram off else none

/-- `rom[off]`; none beyond `ROM_SIZE` (R47, R92; log 26). -/
def romGet (s : State) (off : Nat) : Option Byte := Memory.get s.romSize s.cart.rom off

/-- The observation of a RAM access; its bank index is taken as 0 (R102, D18). -/
def ramObservation (addr : Addr) : Observation := ⟨addr, ramOffset addr, .ram, 0⟩

/-- The observation of a ROM read (R102). -/
def romObservation (addr : Addr) (off : Nat) : Observation := ⟨addr, off, .rom, off / Config.bankSize⟩

/-- A read that has reached its region: the byte, or the region's own `OutOfBounds` (R66 to R68, R92). -/
def answerRead (got : Option Byte) (o : Observation) (s : State) : State :=
  match got with
  | some v => s.respond (.okByte v) (some o)
  | none => s.raiseOutOfBounds

/-- A write that has reached the RAM window (R71); on a cartridge without RAM, `RAM_ABSENT_WRITE` says
what it does (R72; log 15). -/
def storeRam (addr : Addr) (value : Byte) (s : State) : State :=
  if s.cart.ramPresent then
    match Memory.set Config.ramSize s.ram (ramOffset addr) value with
    | some m => { s with ram := m }.respond .ok (some (ramObservation addr))
    | none => s.raiseOutOfBounds
  else
    match s.cart.ramAbsentWrite with
    | .noop => s.respond .ok (some (ramObservation addr))
    | .error => s.raiseOutOfBounds

/-! ### The registers -/

/-- `(prgBase0, prgBase1) <- bases(control.prgMode, bankSelect)` (R21, R83). -/
def recomputeBases (s : State) : State :=
  { s with
    prgBase0 := (bases s.cart.romBanks s.control.prgMode s.bankSelect).1
    prgBase1 := (bases s.cart.romBanks s.control.prgMode s.bankSelect).2 }

/-- `accum <- 0; count <- 0` (R74, R76). -/
def clearPort (s : State) : State := { s with accum := 0, count := 0 }

/-- One shift (R75): the bit enters the accumulator, and `count` advances. -/
def shiftPort (value : Byte) (s : State) : State :=
  { s with accum := shiftIn s.accum value, count := s.count + 1 }

/-- Register 0, the control register, takes `b`; `bankSelect` is not changed (R56, R77). -/
def loadControl (b : Reg5) (s : State) : State :=
  { s with control := ⟨prgModeOf (prgModeField b), chrModeField b, mirrorField b⟩ }.recomputeBases

/-- Register 1, CHR bank 0, takes `b` (R59, R78). -/
def loadChr0 (b : Reg5) (s : State) : State := { s with chrBank0 := b }

/-- Register 2, CHR bank 1, takes `b` (R59, R79). -/
def loadChr1 (b : Reg5) (s : State) : State := { s with chrBank1 := b }

/-- Register 3, the PRG bank, takes `b`; the mode is not changed (R58, R80). -/
def loadPrg (b : Reg5) (s : State) : State := { s with bankSelect := prgBankField b }.recomputeBases

/-- The registers a reset write sets; `control.chrMode`, `control.mirror` and `ram` are not among them
(R74, D2, D7, D8; log 9, log 12, log 13). -/
def resetRegisters (s : State) : State :=
  { s with
    control := { s.control with prgMode := modeReset }
    bankSelect := bankReset
    chrBank0 := 0
    chrBank1 := 0 }.recomputeBases

/-- The common part of the four commits (R76): the value with this write's bit, the register's own part,
then the port cleared and `Ok` returned. -/
def commit (load : Reg5 → State → State) (value : Byte) (s : State) : State :=
  (load (shiftIn s.accum value) s).clearPort.respond .ok none

end State
end Sys2Proof.Machine
end

