-- ==== Sys2Proof/Machine/Read.lean ====
section
/-! DEFINITION. The four read operations (40_read_path.md R65 to R68). -/

namespace Sys2Proof.Machine

/-- READ_OOB (R65): `raise OutOfBounds(addr)`, always; the error carries no address (R91). -/
def execReadOob (_addr : Addr) (s : State) : Host.Outcome State Fault Refusal :=
  .next s.raiseOutOfBounds

/-- READ_RAM (R66): `off <- (addr - $6000) mod RAM_SIZE; return Ok(ram[off])`. -/
def execReadRam (addr : Addr) (s : State) : Host.Outcome State Fault Refusal :=
  .next (s.answerRead (s.ramGet (ramOffset addr)) (State.ramObservation addr))

/-- READ_ROM0 (R67): `off <- prgBase0 + ((addr - $8000) mod 16384); return Ok(rom[off])`. -/
def execReadRom0 (addr : Addr) (s : State) : Host.Outcome State Fault Refusal :=
  .next (s.answerRead (s.romGet (s.prgBase0 + window0Offset addr))
    (State.romObservation addr (s.prgBase0 + window0Offset addr)))

/-- READ_ROM1 (R68): `off <- prgBase1 + ((addr - $C000) mod 16384); return Ok(rom[off])`. -/
def execReadRom1 (addr : Addr) (s : State) : Host.Outcome State Fault Refusal :=
  .next (s.answerRead (s.romGet (s.prgBase1 + window1Offset addr))
    (State.romObservation addr (s.prgBase1 + window1Offset addr)))

end Sys2Proof.Machine
end

