-- ==== Sys2Proof/Machine/Serial.lean ====
section
/-! DEFINITION. The six operations of the register port (42_serial_port.md R73 to R82). None reads an
address bit below bit 13; what `addr[14:13]` selects is settled by the decoder (R52, R73). -/

namespace Sys2Proof.Machine

/-- WRITE_RESET (R74): the port cleared, `SwitchLast` forced, the bank selects at their power-on values,
the bases recomputed. -/
def execWriteReset (_addr : Addr) (_value : Byte) (s : State) : Host.Outcome State Fault Refusal :=
  .next (s.clearPort.resetRegisters.respond .ok none)

/-- WRITE_SHIFT (R75): `accum <- (accum >> 1) | (value[0] << 4); count <- count + 1; return Ok`. -/
def execWriteShift (_addr : Addr) (value : Byte) (s : State) : Host.Outcome State Fault Refusal :=
  .next ((s.shiftPort value).respond .ok none)

/-- COMMIT_CTRL (R76, R77). -/
def execCommitCtrl (_addr : Addr) (value : Byte) (s : State) : Host.Outcome State Fault Refusal :=
  .next (s.commit State.loadControl value)

/-- COMMIT_CHR0 (R76, R78). -/
def execCommitChr0 (_addr : Addr) (value : Byte) (s : State) : Host.Outcome State Fault Refusal :=
  .next (s.commit State.loadChr0 value)

/-- COMMIT_CHR1 (R76, R79). -/
def execCommitChr1 (_addr : Addr) (value : Byte) (s : State) : Host.Outcome State Fault Refusal :=
  .next (s.commit State.loadChr1 value)

/-- COMMIT_PRG (R76, R80). -/
def execCommitPrg (_addr : Addr) (value : Byte) (s : State) : Host.Outcome State Fault Refusal :=
  .next (s.commit State.loadPrg value)

end Sys2Proof.Machine
end

