-- ==== Sys2Proof/Machine/Write.lean ====
section
/-! DEFINITION. The two write operations outside the register port (41_write_path.md R70 to R72). -/

namespace Sys2Proof.Machine

/-- WRITE_OOB (R70): `raise OutOfBounds(addr)`, whatever the value; no reset, no shift. -/
def execWriteOob (_addr : Addr) (_value : Byte) (s : State) : Host.Outcome State Fault Refusal :=
  .next s.raiseOutOfBounds

/-- WRITE_RAM (R71, R72): `off <- (addr - $6000) mod RAM_SIZE; ram[off] <- value; return Ok`. -/
def execWriteRam (addr : Addr) (value : Byte) (s : State) : Host.Outcome State Fault Refusal :=
  .next (s.storeRam addr value)

end Sys2Proof.Machine
end

