-- ==== Sys2Proof/Machine/Dispatch.lean ====
section
/-! DEFINITION. One arm per constructor of Instr (30_encoding.md R60). -/

namespace Sys2Proof.Machine

/-- The meaning of every operation. -/
def exec (i : Instr) (s : State) : Host.Outcome State Fault Refusal :=
  match i with
  | .readOob addr => Sys2Proof.Machine.execReadOob addr s
  | .readRam addr => Sys2Proof.Machine.execReadRam addr s
  | .readRom0 addr => Sys2Proof.Machine.execReadRom0 addr s
  | .readRom1 addr => Sys2Proof.Machine.execReadRom1 addr s
  | .writeOob addr value => Sys2Proof.Machine.execWriteOob addr value s
  | .writeRam addr value => Sys2Proof.Machine.execWriteRam addr value s
  | .writeReset addr value => Sys2Proof.Machine.execWriteReset addr value s
  | .writeShift addr value => Sys2Proof.Machine.execWriteShift addr value s
  | .commitCtrl addr value => Sys2Proof.Machine.execCommitCtrl addr value s
  | .commitChr0 addr value => Sys2Proof.Machine.execCommitChr0 addr value s
  | .commitChr1 addr value => Sys2Proof.Machine.execCommitChr1 addr value s
  | .commitPrg addr value => Sys2Proof.Machine.execCommitPrg addr value s

end Sys2Proof.Machine
end

