-- ==== Sys2Proof/Machine/Step.lean ====
section
/-! DEFINITION. One step is one transaction (00_scope.md R6): the oldest pending one is taken off the
list, decoded with the `count` of the state, and executed. -/

namespace Sys2Proof.Machine

/-- One step. With no transaction pending the block, which is passive, stays as it is (R7, R8; log 2). -/
def step (s : State) : Host.Outcome State Fault Refusal :=
  match s.pending with
  | [] => .next s
  | t :: rest => exec (decode s.count t) { s with pending := rest }

/-- The word's transaction made the next one the bus issues; `count` and everything else stay as they
are (log 1, log 22). A number that is no transaction word places nothing. -/
def State.withFetchWord (s : State) (nbits w : Nat) : State :=
  match txnOfTableWord nbits w with
  | some t => s.issueNext t
  | none => s

end Sys2Proof.Machine
end

