-- ==== Sys2Proof/Machine/Contract.lean ====
section
/-! DEFINITION. The block as REMY describes it, by two contracts instead of twelve operations: `read` through
the one function `translate` (20_memory.md R36), `write` through one path that shifts, counts and commits
when the count reaches 5 (30_encoding.md R60, 42_serial_port.md R75, R76); the PRG side of the MapperFacade,
which delegates to them (20_memory.md R48); and construction (70_reset_and_hazards.md R108). -/

namespace Sys2Proof.Machine

/-- What `translate` gives (R36). -/
inductive Target where
  | outOfBounds
  | ram (off : Nat)
  | rom (off : Nat)
  deriving DecidableEq, Repr

namespace State

/-- `translate(addr)` (R36), by comparison of numbers (R31). -/
def translate (s : State) (addr : Nat) : Target :=
  if addr < 0x6000 then .outOfBounds
  else if addr < 0x8000 then .ram ((addr - 0x6000) % 8192)
  else if addr < 0xC000 then .rom (s.prgBase0 + (addr - 0x8000) % 16384)
  else .rom (s.prgBase1 + (addr - 0xC000) % 16384)

/-- REMY's contract "`read(addr: u16) -> byte | OutOfBounds`": the answer stands in the state it gives. -/
def contractRead (addr : Addr) (s : State) : State :=
  match s.translate addr.toNat with
  | .outOfBounds => s.raiseOutOfBounds
  | .ram off => s.answerRead (s.ramGet off) ⟨addr, off, .ram, 0⟩
  | .rom off => s.answerRead (s.romGet off) ⟨addr, off, .rom, off / 16384⟩

/-- REMY's one write path in `$8000–$FFFF`: "If `value` bit 7 is set: reset ... Otherwise: shift bit 0 of
`value` into the top of the 5-bit accumulator ... increment count. When count reaches 5: commit the
accumulated 5-bit value into the register selected by address bits 13–14 of `addr` ..., then reset value
and count to 0" (R73 to R76). -/
def contractSerial (addr : Addr) (value : Byte) (s : State) : State :=
  if 0x80 ≤ value.toNat then s.clearPort.resetRegisters.respond .ok none
  else
    let b : Reg5 := BitVec.ofNat 5 (s.accum.toNat / 2 + value.toNat % 2 * 16)
    if s.count.val + 1 = 5 then
      let loaded :=
        match addr.toNat / 0x2000 % 4 with
        | 0 => s.loadControl b
        | 1 => s.loadChr0 b
        | 2 => s.loadChr1 b
        | _ => s.loadPrg b
      loaded.clearPort.respond .ok none
    else { s with accum := b, count := s.count + 1 }.respond .ok none

/-- REMY's contract "`write(addr: u16, value: u8) -> success | OutOfBounds`" (41_write_path.md). -/
def contractWrite (addr : Addr) (value : Byte) (s : State) : State :=
  if addr.toNat < 0x6000 then s.raiseOutOfBounds
  else if addr.toNat < 0x8000 then s.storeRam addr value
  else s.contractSerial addr value

/-- One transaction through the contracts. -/
def contract (t : Txn) (s : State) : State :=
  match t.rw with
  | .read => s.contractRead t.addr
  | .write => s.contractWrite t.addr t.value

end State

/-! ### The PRG side of the MapperFacade -/

/-- The two views of the one unit: `prg()` "read-only" and `prg_mut()` (R48, R99). -/
inductive PrgView where
  | prg
  | prgMut
  deriving DecidableEq, Repr

namespace PrgView

/-- `length()` of a PRG view: 65536, so that the offset is the virtual address (R48, D17; log 17). -/
def length (_v : PrgView) : Nat := 65536

/-- `get(offset)` on either view is `MemRead(offset, 1)` (R48); an offset beyond `length()` is the memory
capability's own `OutOfBounds` (R47; log 17). -/
def get (v : PrgView) (offset : Nat) (s : State) : State :=
  if offset < v.length then s.contractRead (BitVec.ofNat 16 offset) else s.raiseOutOfBounds

/-- `set(offset, byte)` on the mutable view is `MemWrite(offset, 1, byte)` (R48). The read-only view offers
no `set`: there is none for it here. -/
def setMut (offset : Nat) (value : Byte) (s : State) : State :=
  if offset < PrgView.prgMut.length then s.contractWrite (BitVec.ofNat 16 offset) value
  else s.raiseOutOfBounds

end PrgView

/-! ### Construction -/

/-- `new(romBytes, diagnosticSink)` (R93, R108) with the RAM contents the power-on happens to leave
(`RAM_INIT`, D4): the power-on state of a cartridge of `L / 16384` banks, or `InvalidRom` (log 28). -/
def construct (romBytes : List Byte) (ramInit : Nat → Byte) (sink : Bool) :
    Host.Outcome State Fault Refusal :=
  if romBytes.length = 0 ∨ romBytes.length % Config.bankSize ≠ 0 then .fault .invalidRom
  else
    .next (State.powerOn
      ⟨romBytes.length / Config.bankSize, Memory.ofBytes romBytes, Config.ramPresent, Config.ramAbsentWrite,
        sink⟩
      (Memory.ofFn Config.ramSize ramInit))

end Sys2Proof.Machine
end

