-- ==== Sys2Proof/Safety.lean ====
section
/-! DEFINITION. What a state of the block is between transactions (10_state.md R22), and the words the
statements are written in. -/

namespace Sys2Proof.Machine
namespace State

/-- The accumulator during a load (R13, R81): its lower `5 - count` bits are 0. At `count = 0` it says
`accum = 0`, invariant (e) of R22. -/
abbrev PortWf (s : State) : Prop := s.accum.toNat % 2 ^ (5 - s.count.val) = 0

/-- Invariant (f) of R22: the stored bases are the ones R21 gives. -/
abbrev BasesWf (s : State) : Prop :=
  (s.prgBase0, s.prgBase1) = bases s.cart.romBanks s.control.prgMode s.bankSelect

/-- The two memories are canonical lists of cells inside their regions (R11, R12, R47; log 7). -/
abbrev MemoriesWf (s : State) : Prop :=
  s.ram.wf = true ∧ s.ram.within Config.ramSize = true ∧
  s.cart.rom.wf = true ∧ s.cart.rom.within s.romSize = true

/-- The invariant of the block between transactions: `N >= 1` (R12, R108), R21's equation, the shape of
the accumulator, and canonical memories. (R22 (d), `count` in `[0,5)`, and (b), one mode at a time, hold
by the types of the fields; (a) and (c) follow.) -/
abbrev Inv (s : State) : Prop := 1 ≤ s.cart.romBanks ∧ s.BasesWf ∧ s.PortWf ∧ s.MemoriesWf

/-- The register file and memories of R10 are the same in both states, the bus interface apart. -/
abbrev SameUnit (s t : State) : Prop :=
  t.cart = s.cart ∧ t.ram = s.ram ∧ t.accum = s.accum ∧ t.count = s.count ∧ t.control = s.control ∧
  t.bankSelect = s.bankSelect ∧ t.chrBank0 = s.chrBank0 ∧ t.chrBank1 = s.chrBank1 ∧
  t.prgBase0 = s.prgBase0 ∧ t.prgBase1 = s.prgBase1

/-- The state with its diagnostic sink removed, and what a sink was shown with it. -/
def withoutSink (s : State) : State :=
  { s with cart := { s.cart with sink := false }, observation := none }

/-- The state with the latches no operation of this block reads set to 0 (R17, R18, R20). -/
def withoutLatches (s : State) : State :=
  { s with control := ⟨s.control.prgMode, 0, 0⟩, chrBank0 := 0, chrBank1 := 0 }

/-- What the commit of the number `b` to register `r` leaves, from the state before it (R56, R58, R59, R77 to
R80), in numbers: the register itself, every other register, and the bases. -/
def Committed (r b : Nat) (s t : State) : Prop :=
  (match r with
   | 0 => t.control.chrMode.toNat = b / 16 % 2 ∧ t.control.prgMode = prgModeOf (BitVec.ofNat 2 (b / 4)) ∧
       t.control.mirror.toNat = b % 4
   | _ => t.control = s.control) ∧
  (match r with
   | 1 => t.chrBank0.toNat = b
   | _ => t.chrBank0 = s.chrBank0) ∧
  (match r with
   | 2 => t.chrBank1.toNat = b
   | _ => t.chrBank1 = s.chrBank1) ∧
  (match r with
   | 3 => t.bankSelect.toNat = b % 16
   | _ => t.bankSelect = s.bankSelect) ∧
  (match r with
   | 0 | 3 => (t.prgBase0, t.prgBase1) = bases s.cart.romBanks t.control.prgMode t.bankSelect
   | _ => t.prgBase0 = s.prgBase0 ∧ t.prgBase1 = s.prgBase1)

/-- The four registers, the bases and the serial port are the same in both states. -/
abbrev SamePort (s t : State) : Prop :=
  t.accum = s.accum ∧ t.count = s.count ∧ t.control = s.control ∧ t.bankSelect = s.bankSelect ∧
  t.chrBank0 = s.chrBank0 ∧ t.chrBank1 = s.chrBank1 ∧ t.prgBase0 = s.prgBase0 ∧ t.prgBase1 = s.prgBase1

/-- The 5-bit value a shift write makes of the accumulator and its own bit, as a number (R75, R76). -/
def shifted (s : State) (value : Byte) : Nat := s.accum.toNat / 2 + value.toNat % 2 * 16

end State

/-- The number whose bits are the data bits of the bytes, the first byte's lowest (R55). -/
def bitsValue : List Byte → Nat
  | [] => 0
  | v :: vs => v.toNat % 2 + 2 * bitsValue vs

/-- The transaction is a write to `$8000–$FFFF` (R73). -/
def isPortWrite (t : Txn) : Bool := t.rw == .write && 0x8000 ≤ t.addr.toNat

/-- The byte of the latest write in the list to a RAM address with this offset, if there is one (R41 (a)). -/
def latestRamWrite (off : Nat) : List Txn → Option Byte
  | [] => none
  | t :: ts =>
    match latestRamWrite off ts with
    | some v => some v
    | none => if t.rw = .write ∧ t.addr.toNat = 0x6000 + off then some t.value else none

/-- The outcome with every next state seen through `f`. -/
def mapNext (f : State → State) : Host.Outcome State Fault Refusal → Host.Outcome State Fault Refusal
  | .next s => .next (f s)
  | .fault r => .fault r
  | .refused r => .refused r

end Sys2Proof.Machine
end

