-- ==== Sys2Proof/Certificates/Slice0/Obligations.lean ====
section
/-! DEFINITION. The statements for the provers. Where a statement rests on a decision D<n> of the spec or on
an inference it marks as its own, its docstring says so and names the log entry. -/

open Sys2Proof Sys2Proof.Machine

/-! ### Reset and construction -/

/-- The registers at power-on (R27). The values are the spec's own choices D2 and D3 (log 9, log 10), except
the bases, which follow from R21. RAM is present by the spec's D10 (log 15); that nothing is pending, answered or
observed at reset is the model's own choice for its own fields (log 1, log 3, log 18). -/
def Obligations.PowerOnRegisters : Prop :=
  State.reset.accum = 0 ∧ State.reset.count = 0 ∧ State.reset.control = ⟨.switchLast, 0, 0⟩ ∧
  State.reset.bankSelect = 0 ∧ State.reset.chrBank0 = 0 ∧ State.reset.chrBank1 = 0 ∧
  State.reset.prgBase0 = 0 ∧ State.reset.prgBase1 = (State.reset.cart.romBanks - 1) * 16384 ∧
  1 ≤ State.reset.cart.romBanks ∧ State.reset.cart.ramPresent = true ∧
  State.reset.pending = [] ∧ State.reset.answer = none ∧ State.reset.observation = none

/-- The memories at power-on: every RAM byte is the open parameter RAM_INIT's, every ROM byte the cartridge's,
and nothing stands beyond them (R27, D4; log 5, log 6). That the RAM is there at all at reset is D10 (log 15). Nothing
is said of the values themselves. -/
def Obligations.PowerOnMemories : Prop :=
  (∀ off, State.reset.ramGet off = if off < 8192 then some (Config.ramInit off) else none) ∧
  (∀ off, State.reset.romGet off =
    if off < State.reset.cart.romBanks * 16384 then some (Config.romByte off) else none)

/-- The invariant holds at reset (R22, "Each holds at power-on"). -/
def Obligations.PowerOnMeetsInvariant : Prop := State.reset.Inv

/-- `InvalidRom` exactly for a ROM image whose length is 0 or no multiple of 16 KiB (R93). -/
def Obligations.ConstructionRefusesBadLengths : Prop :=
  ∀ (bytes : List Byte) (init : Nat → Byte) (sink : Bool),
    construct bytes init sink = .fault .invalidRom ↔ (bytes.length = 0 ∨ bytes.length % 16384 ≠ 0)

/-- Construction from a good image (R108): `N = L / 16384`, offset `i` of the ROM is byte `i`, the RAM holds
RAM_INIT, the registers have their power-on values, and the invariant holds. The value 0 of `bankSelect` is D2 (log 9),
the other registers' values D3 (log 10), the open RAM contents D4 (log 6), the presence of the RAM D10 (log 15). -/
def Obligations.ConstructionGivesPowerOn : Prop :=
  ∀ (bytes : List Byte) (init : Nat → Byte) (sink : Bool),
    bytes.length ≠ 0 → bytes.length % 16384 = 0 →
    ∃ s, construct bytes init sink = .next s ∧ s.Inv ∧
      s.cart.romBanks = bytes.length / 16384 ∧ s.cart.sink = sink ∧
      (∀ off, s.romGet off = bytes[off]?) ∧
      (∀ off, off < 8192 → s.ramGet off = some (init off)) ∧
      s.accum = 0 ∧ s.count = 0 ∧ s.control = ⟨.switchLast, 0, 0⟩ ∧ s.bankSelect = 0 ∧
      s.chrBank0 = 0 ∧ s.chrBank1 = 0 ∧ s.prgBase0 = 0 ∧ s.prgBase1 = bytes.length - 16384

/-! ### Decoding -/

/-- Words written out bit by bit from R50 (95_test_vectors.md V-DEC) decode to what they stand for. -/
def Obligations.DecodesWrittenOutWords : Prop :=
  decodeWord 0 0b0010111111111111100000000 = .ok (.readOob 0x5FFF) ∧
  decodeWord 0 0b0011111111111111100000000 = .ok (.readRam 0x7FFF) ∧
  decodeWord 4 0b0101111111111111100000000 = .ok (.readRom0 0xBFFF) ∧
  decodeWord 0 0b0110000000000000000000000 = .ok (.readRom1 0xC000) ∧
  decodeWord 4 0b1010000000000000010000000 = .ok (.writeOob 0x4000 0x80) ∧
  decodeWord 4 0b1011000000000000010000000 = .ok (.writeRam 0x6000 0x80) ∧
  decodeWord 4 0b1111111111111111111111111 = .ok (.writeReset 0xFFFF 0xFF) ∧
  decodeWord 3 0b1100000000000000000000001 = .ok (.writeShift 0x8000 0x01) ∧
  decodeWord 4 0b1100000000000000000000001 = .ok (.commitCtrl 0x8000 0x01) ∧
  decodeWord 4 0b1101000000000000001111110 = .ok (.commitChr0 0xA000 0x7E) ∧
  decodeWord 4 0b1110111111111111101111111 = .ok (.commitChr1 0xDFFF 0x7F) ∧
  decodeWord 4 0b1111000000000000000000000 = .ok (.commitPrg 0xE000 0x00)

/-- The twelve rows of R60, by comparison of addresses and data, as the decoder's answer. A read's data byte
is ignored. -/
def Obligations.DecodeFollowsOperationMap : Prop :=
  ∀ (c : Fin 5) (a : Addr) (v : Byte),
    (a.toNat < 0x6000 → decode c ⟨.read, a, v⟩ = .readOob a) ∧
    (0x6000 ≤ a.toNat → a.toNat < 0x8000 → decode c ⟨.read, a, v⟩ = .readRam a) ∧
    (0x8000 ≤ a.toNat → a.toNat < 0xC000 → decode c ⟨.read, a, v⟩ = .readRom0 a) ∧
    (0xC000 ≤ a.toNat → decode c ⟨.read, a, v⟩ = .readRom1 a) ∧
    (a.toNat < 0x6000 → decode c ⟨.write, a, v⟩ = .writeOob a v) ∧
    (0x6000 ≤ a.toNat → a.toNat < 0x8000 → decode c ⟨.write, a, v⟩ = .writeRam a v) ∧
    (0x8000 ≤ a.toNat → v.toNat ≥ 0x80 → decode c ⟨.write, a, v⟩ = .writeReset a v) ∧
    (0x8000 ≤ a.toNat → v.toNat < 0x80 → c.val < 4 → decode c ⟨.write, a, v⟩ = .writeShift a v) ∧
    (0x8000 ≤ a.toNat → a.toNat < 0xA000 → v.toNat < 0x80 → c.val = 4 →
      decode c ⟨.write, a, v⟩ = .commitCtrl a v) ∧
    (0xA000 ≤ a.toNat → a.toNat < 0xC000 → v.toNat < 0x80 → c.val = 4 →
      decode c ⟨.write, a, v⟩ = .commitChr0 a v) ∧
    (0xC000 ≤ a.toNat → a.toNat < 0xE000 → v.toNat < 0x80 → c.val = 4 →
      decode c ⟨.write, a, v⟩ = .commitChr1 a v) ∧
    (0xE000 ≤ a.toNat → v.toNat < 0x80 → c.val = 4 → decode c ⟨.write, a, v⟩ = .commitPrg a v)

/-- Decode of encode is the operation itself, with every operand at every value, at every `count` where it
runs. -/
def Obligations.DecodeEncodeRoundTrip : Prop :=
  ∀ (c : Fin 5) (i : Instr), i.wellFormed = true → i.runsAt c = true → decodeWord c (encode i) = .ok i

/-- Every 25-bit word is a well-formed operation that runs at this `count`, and encoding it gives the word
back, but for the data byte of a read, which is written as 0 (R50). That a wider number is rejected, by the name
`widerThanTransaction`, is the model's own choice (log 21): the spec gives such numbers no meaning. -/
def Obligations.EncodeDecodeWord : Prop :=
  ∀ (c : Fin 5) (w : Nat),
    (w < 2 ^ 25 → ∃ i, decodeWord c w = .ok i ∧ i.wellFormed = true ∧ i.runsAt c = true ∧
      encode i = if w < 2 ^ 24 then w / 256 * 256 else w) ∧
    (2 ^ 25 ≤ w → decodeWord c w = .error .widerThanTransaction)

/-- With `count` as an input the operation table decodes every word to exactly one mnemonic, and it is the
decoder's (R61, marked as derived by the spec). -/
def Obligations.OpcodeTableAgreesWithDecoder : Prop :=
  ∀ (c : Fin 5) (w : Nat), w < 2 ^ 25 →
    ∃ i, decodeWord c w = .ok i ∧ (∃ r ∈ opcodeTable, r.applies c w = true) ∧
      ∀ r ∈ opcodeTable, r.applies c w = true → r.mnemonic = i.mnemonic

/-- A step takes the oldest pending transaction, decodes it with the state's `count` and runs it (R6); with
none pending the block stays as it is (the model's choice, log 2); a word placed for the next step is
the one that runs (log 1). -/
def Obligations.StepRunsDecodedTransaction : Prop :=
  (∀ (s : State) (t : Txn) (rest : List Txn), s.pending = t :: rest →
    step s = exec (decode s.count t) { s with pending := rest }) ∧
  (∀ s : State, s.pending = [] → step s = .next s) ∧
  (∀ (s : State) (nbits w : Nat) (i : Instr), decodeWord s.count (w % 2 ^ nbits) = .ok i →
    step (s.withFetchWord nbits w) = exec i s)

/-! ### The read path -/

/-- READ_OOB (R65): a read below `$6000` is this operation, whatever the state of the port; it answers `OutOfBounds`,
no byte, and writes no state. A read of `$6000` is READ_RAM. -/
def Obligations.ReadBelowWindowFails : Prop :=
  (∀ (s : State) (a : Addr), a.toNat < 0x6000 →
    (∀ (c : Fin 5) (v : Byte), decode c ⟨.read, a, v⟩ = .readOob a) ∧
    ∃ t, exec (.readOob a) s = .next t ∧ t.answer = some .outOfBounds ∧ s.SameUnit t ∧
      t.pending = s.pending) ∧
  (∀ (c : Fin 5) (v : Byte), decode c ⟨.read, 0x6000, v⟩ = .readRam 0x6000)

/-- READ_RAM, on a cartridge with RAM: the byte at `addr - $6000`, and no state written (R66; the variant
without RAM is `RamAbsentVariant`). -/
def Obligations.ReadRamAnswersByte : Prop :=
  ∀ (s : State) (a : Addr), 0x6000 ≤ a.toNat → a.toNat < 0x8000 → s.cart.ramPresent = true →
    ∃ t, exec (.readRam a) s = .next t ∧ t.answer = some (.okByte (s.ram.read (a.toNat - 0x6000))) ∧
      t = { s with answer := t.answer, observation := t.observation }

/-- READ_ROM0: the byte at `prgBase0 + (addr - $8000)`, inside the ROM, in the bank the mode gives (R67), and no
state written. The reduction of the bank `mod N` is the spec's decision D5 (log 11). -/
def Obligations.ReadRomWindow0AnswersByte : Prop :=
  ∀ (s : State) (a : Addr), s.Inv → 0x8000 ≤ a.toNat → a.toNat < 0xC000 →
    (s.prgBase0 + (a.toNat - 0x8000) < s.cart.romBanks * 16384) ∧
    (s.prgBase0 = 16384 * match s.control.prgMode with
      | .switchBoth => s.bankSelect.toNat / 2 * 2 % s.cart.romBanks
      | .switchFirst => 0
      | .switchLast => s.bankSelect.toNat % s.cart.romBanks) ∧
    ∃ t, exec (.readRom0 a) s = .next t ∧
      t.answer = some (.okByte (s.cart.rom.read (s.prgBase0 + (a.toNat - 0x8000)))) ∧
      t = { s with answer := t.answer, observation := t.observation }

/-- READ_ROM1: the byte at `prgBase1 + (addr - $C000)`, inside the ROM, in the bank the mode gives (R68), and no
state written. The reduction of the bank `mod N` is the spec's decision D5 (log 11). -/
def Obligations.ReadRomWindow1AnswersByte : Prop :=
  ∀ (s : State) (a : Addr), s.Inv → 0xC000 ≤ a.toNat →
    (s.prgBase1 + (a.toNat - 0xC000) < s.cart.romBanks * 16384) ∧
    (s.prgBase1 = 16384 * match s.control.prgMode with
      | .switchBoth => (s.bankSelect.toNat / 2 * 2 + 1) % s.cart.romBanks
      | .switchFirst => s.bankSelect.toNat % s.cart.romBanks
      | .switchLast => s.cart.romBanks - 1) ∧
    ∃ t, exec (.readRom1 a) s = .next t ∧
      t.answer = some (.okByte (s.cart.rom.read (s.prgBase1 + (a.toNat - 0xC000)))) ∧
      t = { s with answer := t.answer, observation := t.observation }

/-- Reads are pure (R69): a read leaves every item of R10 unchanged, and two reads of one address with only
reads between them return the same result. -/
def Obligations.ReadsArePure : Prop :=
  (∀ (s : State) (t : Txn) (rest : List Txn), s.pending = t :: rest → t.rw = .read →
    ∃ s', step s = .next s' ∧ s.SameUnit s') ∧
  (∀ (s : State) (t : Txn) (between rest : List Txn), t.rw = .read → (∀ r ∈ between, r.rw = .read) →
    s.pending = t :: (between ++ t :: rest) →
    ∃ s₁ s₂, step s = .next s₁ ∧ core.run (between.length + 1) s₁ = .next s₂ ∧ s₂.answer = s₁.answer)

/-! ### The write path outside the register port -/

/-- WRITE_OOB (R70): a write below `$6000` is this operation, whatever the value and the state of the port; it answers
`OutOfBounds` and writes no state: no reset, no shift. A write of `$6000` is WRITE_RAM. -/
def Obligations.WriteBelowWindowFails : Prop :=
  (∀ (s : State) (a : Addr) (v : Byte), a.toNat < 0x6000 →
    (∀ c : Fin 5, decode c ⟨.write, a, v⟩ = .writeOob a v) ∧
    ∃ t, exec (.writeOob a v) s = .next t ∧ t.answer = some .outOfBounds ∧ s.SameUnit t ∧
      t.pending = s.pending) ∧
  (∀ (c : Fin 5) (v : Byte), decode c ⟨.write, 0x6000, v⟩ = .writeRam 0x6000 v)

/-- WRITE_RAM stores the one byte at `(addr - $6000) mod 8192`, answers `Ok`, and changes nothing else: no other
byte, not the accumulator, the count or a register (R71). Afterwards a read of any address with that offset answers
the byte. A cartridge without RAM is R72's variant: `RamAbsentVariant`. -/
def Obligations.WriteRamStoresOneByte : Prop :=
  ∀ (s : State) (a : Addr) (v : Byte), 0x6000 ≤ a.toNat → a.toNat < 0x8000 → s.cart.ramPresent = true →
    s.ram.wf = true →
    ramOffset a = a.toNat - 0x6000 ∧
    ∃ t, exec (.writeRam a v) s = .next t ∧ t.answer = some .ok ∧ t.ramGet (ramOffset a) = some v ∧
      (∀ off, off ≠ ramOffset a → t.ramGet off = s.ramGet off) ∧
      (∀ a' : Addr, 0x6000 ≤ a'.toNat → a'.toNat < 0x8000 → ramOffset a' = ramOffset a →
        ∃ u, exec (.readRam a') t = .next u ∧ u.answer = some (.okByte v)) ∧
      t = { s with ram := t.ram, answer := t.answer, observation := t.observation }

/-- A cartridge without RAM (D10, log 15): a read of the RAM window answers `OutOfBounds`; a write answers `Ok`
with no effect, or `OutOfBounds` when RAM_ABSENT_WRITE is `error` (R66, R72). No state changes. -/
def Obligations.RamAbsentVariant : Prop :=
  ∀ (s : State) (a : Addr) (v : Byte), 0x6000 ≤ a.toNat → a.toNat < 0x8000 → s.cart.ramPresent = false →
    (∃ t, exec (.readRam a) s = .next t ∧ t.answer = some .outOfBounds ∧ s.SameUnit t) ∧
    (∃ t, exec (.writeRam a v) s = .next t ∧ s.SameUnit t ∧
      t.answer = match s.cart.ramAbsentWrite with
        | .noop => some .ok
        | .error => some .outOfBounds)

/-- The RAM offset (R34): in a RAM of any size, `$6000 + k` reaches offset `k mod size`, for every `k` in the window; this
hardware's own offset is that of size 8192. So "for a RAM region of size `R`, `read($6000 + k)` == `read($6000 + k + R)`",
for every `k` whose mirror lies in the window: both addresses reach one offset. -/
def Obligations.SmallerRamMirrors : Prop :=
  ∀ (size k : Nat), 0x6000 + k < 0x8000 →
    ramOffsetIn size (BitVec.ofNat 16 (0x6000 + k)) = k % size ∧
    ramOffset (BitVec.ofNat 16 (0x6000 + k)) = k ∧
    (0x6000 + k + size < 0x8000 →
      ramOffsetIn size (BitVec.ofNat 16 (0x6000 + k + size)) = ramOffsetIn size (BitVec.ofNat 16 (0x6000 + k)))

/-! ### The serial register port -/

/-- Every write to `$8000–$FFFF` is taken by the serial port and by nothing else (R73): bit 7 is tested first,
then the count, then `addr[14:13]`; no byte is stored to `rom` or `ram`, and the answer is `Ok`. -/
def Obligations.SerialWriteDispatch : Prop :=
  ∀ (s : State) (a : Addr) (v : Byte) (rest : List Txn), s.pending = Txn.wr a v :: rest → 0x8000 ≤ a.toNat →
    (decode s.count (Txn.wr a v) =
      if v.toNat ≥ 0x80 then .writeReset a v
      else if s.count.val < 4 then .writeShift a v
      else if a.toNat / 0x2000 % 4 = 0 then .commitCtrl a v
      else if a.toNat / 0x2000 % 4 = 1 then .commitChr0 a v
      else if a.toNat / 0x2000 % 4 = 2 then .commitChr1 a v
      else .commitPrg a v) ∧
    ∃ t, step s = .next t ∧ t.answer = some .ok ∧ t.ram = s.ram ∧ t.cart = s.cart ∧ t.pending = rest

/-- WRITE_RESET (R74): the port cleared, `SwitchLast` forced, the bank selects at 0, the bases at bank 0 and the
last bank; `chrMode`, `mirror` and `ram` unchanged. The value 0 of `bankSelect` (D2, log 9), the clearing of
the CHR latches (D7, log 12) and the two fields left alone (D8, log 13) are decisions of the spec. -/
def Obligations.ResetWriteEffect : Prop :=
  ∀ (s : State) (a : Addr) (v : Byte),
    ∃ t, exec (.writeReset a v) s = .next t ∧
      t = { s with
        accum := 0, count := 0, control := ⟨.switchLast, s.control.chrMode, s.control.mirror⟩,
        bankSelect := 0, chrBank0 := 0, chrBank1 := 0, prgBase0 := 0,
        prgBase1 := (s.cart.romBanks - 1) * 16384, answer := some .ok, observation := t.observation }

/-- A reset write gives the power-on state back but for `chrMode`, `mirror` and `ram`, and a second one changes
nothing (R74, R106). The power-on values are D2 and D3 (log 9, log 10), the clearing of the CHR latches D7 (log 12), the
two fields left alone D8 (log 13). -/
def Obligations.ResetWriteRestoresPowerOn : Prop :=
  ∀ (s : State) (a a' : Addr) (v v' : Byte),
    ∃ t, exec (.writeReset a v) s = .next t ∧
      State.SameUnit { State.powerOn s.cart s.ram with
        control := ⟨.switchLast, s.control.chrMode, s.control.mirror⟩ } t ∧
      ∃ t', exec (.writeReset a' v') t = .next t' ∧ t.SameUnit t'

/-- WRITE_SHIFT (R75): the bit enters the accumulator at bit 4, `count` advances, and nothing else changes. The
shift amount 1 is the spec's inference (R55, log 24). -/
def Obligations.ShiftWriteEffect : Prop :=
  ∀ (s : State) (a : Addr) (v : Byte), s.count.val < 4 →
    ∃ t, exec (.writeShift a v) s = .next t ∧
      t.accum.toNat = s.accum.toNat / 2 + v.toNat % 2 * 16 ∧ t.count.val = s.count.val + 1 ∧
      t = { s with accum := t.accum, count := t.count, answer := some .ok, observation := t.observation }

/-- COMMIT_CTRL (R76, R77): the three control fields from `B`, the bases from the new mode and the bank already
selected, the port cleared, nothing else. The table `prgModeOf` is D1 (log 8), the reduction of the bank in `bases` D5
(log 11), the place of `mirror` D20 (log 20), the shift amount in `B` an inference (log 24). -/
def Obligations.CommitControlEffect : Prop :=
  ∀ (s : State) (a : Addr) (v : Byte),
    ∃ t, exec (.commitCtrl a v) s = .next t ∧
      t.control.chrMode.toNat = s.shifted v / 16 ∧
      t.control.prgMode = prgModeOf (BitVec.ofNat 2 (s.shifted v / 4)) ∧
      t.control.mirror.toNat = s.shifted v % 4 ∧
      (t.prgBase0, t.prgBase1) = bases s.cart.romBanks t.control.prgMode s.bankSelect ∧
      t = { s with
        control := t.control, prgBase0 := t.prgBase0, prgBase1 := t.prgBase1,
        accum := 0, count := 0, answer := some .ok, observation := t.observation }

/-- COMMIT_CHR0 (R76, R78): the whole 5-bit value into `chrBank0`, the port cleared, nothing else. The latch is
D6 (log 12), the shift amount in `B` an inference (log 24). -/
def Obligations.CommitChr0Effect : Prop :=
  ∀ (s : State) (a : Addr) (v : Byte),
    ∃ t, exec (.commitChr0 a v) s = .next t ∧ t.chrBank0.toNat = s.shifted v ∧
      t = { s with
        chrBank0 := t.chrBank0, accum := 0, count := 0, answer := some .ok, observation := t.observation }

/-- COMMIT_CHR1 (R76, R79): the whole 5-bit value into `chrBank1`, the port cleared, nothing else. The latch is
D6 (log 12), the shift amount in `B` an inference (log 24). -/
def Obligations.CommitChr1Effect : Prop :=
  ∀ (s : State) (a : Addr) (v : Byte),
    ∃ t, exec (.commitChr1 a v) s = .next t ∧ t.chrBank1.toNat = s.shifted v ∧
      t = { s with
        chrBank1 := t.chrBank1, accum := 0, count := 0, answer := some .ok, observation := t.observation }

/-- COMMIT_PRG (R76, R80): `B[3:0]` into `bankSelect`, the bases from it and the mode in force, the port cleared,
nothing else. That `B[4]` is discarded is D9 (log 14), the reduction of the bank in `bases` D5 (log 11), the shift amount
in `B` an inference (log 24). -/
def Obligations.CommitPrgEffect : Prop :=
  ∀ (s : State) (a : Addr) (v : Byte),
    ∃ t, exec (.commitPrg a v) s = .next t ∧ t.bankSelect.toNat = s.shifted v % 16 ∧
      (t.prgBase0, t.prgBase1) = bases s.cart.romBanks s.control.prgMode t.bankSelect ∧
      t = { s with
        bankSelect := t.bankSelect, prgBase0 := t.prgBase0, prgBase1 := t.prgBase1,
        accum := 0, count := 0, answer := some .ok, observation := t.observation }

/-- The complete transition table of `count` and `accum`, and what each transaction commits (R82). The shift
amount is an inference (log 24); what a commit leaves rests on D1, D5, D6, D9 and D20 (log 8, 11, 12, 14, 20). -/
def Obligations.CountTransitionTable : Prop :=
  ∀ (s : State) (t : Txn) (rest : List Txn), s.pending = t :: rest →
    ∃ s', step s = .next s' ∧
      (t.rw = .read → s.SamePort s') ∧
      (t.rw = .write → t.addr.toNat < 0x8000 → s.SamePort s') ∧
      (t.rw = .write → 0x8000 ≤ t.addr.toNat → t.value.toNat ≥ 0x80 → s'.count = 0 ∧ s'.accum = 0) ∧
      (t.rw = .write → 0x8000 ≤ t.addr.toNat → t.value.toNat < 0x80 → s.count.val < 4 →
        s'.count.val = s.count.val + 1 ∧ s'.accum.toNat = s.shifted t.value ∧
        s.SamePort { s' with count := s.count, accum := s.accum }) ∧
      (t.rw = .write → 0x8000 ≤ t.addr.toNat → t.value.toNat < 0x80 → s.count.val = 4 →
        s'.count = 0 ∧ s'.accum = 0 ∧
        State.Committed (t.addr.toNat / 0x2000 % 4) (s.shifted t.value) s s')

/-- After `k` shift writes from an idle port, to any port addresses, `count` is `k` and the accumulator holds the
written bits in its upper `k` bits, first written lowest, zeros below (R81, derived by the spec). -/
def Obligations.AccumulatorHoldsWrittenBits : Prop :=
  ∀ (s : State) (ws : List (Addr × Byte)) (rest : List Txn), s.Inv → s.count = 0 → ws.length ≤ 4 →
    (∀ w ∈ ws, 0x8000 ≤ w.1.toNat ∧ w.2.toNat < 0x80) →
    s.pending = ws.map (fun w => Txn.wr w.1 w.2) ++ rest →
    ∃ s', core.run ws.length s = .next s' ∧ s'.pending = rest ∧ s'.count.val = ws.length ∧
      s'.accum.toNat = bitsValue (ws.map Prod.snd) * 2 ^ (5 - ws.length) ∧
      s.SamePort { s' with count := s.count, accum := s.accum }

/-- A serial load (R52, R55, R76): from an idle port, five shift writes commit the number whose bits they carry,
first written lowest, to the register the FIFTH write's address selects, and the port is idle again. The
addresses of the first four select nothing. What the registers take rests on D1, D5, D6, D9, D20 (log 8, 11, 12,
14, 20), the value on the inferred shift amount (log 24). -/
def Obligations.FiveShiftWritesCommitRegister : Prop :=
  ∀ (s : State) (ws : List (Addr × Byte)) (a : Addr) (v : Byte) (rest : List Txn),
    s.Inv → s.count = 0 → ws.length = 4 →
    (∀ w ∈ ws, 0x8000 ≤ w.1.toNat ∧ w.2.toNat < 0x80) → 0x8000 ≤ a.toNat → v.toNat < 0x80 →
    s.pending = ws.map (fun w => Txn.wr w.1 w.2) ++ Txn.wr a v :: rest →
    ∃ s', core.run 5 s = .next s' ∧ s'.pending = rest ∧ s'.count = 0 ∧ s'.accum = 0 ∧
      s'.ram = s.ram ∧ s'.cart = s.cart ∧
      State.Committed (a.toNat / 0x2000 % 4) (bitsValue (ws.map Prod.snd ++ [v])) s s'

/-- From ANY state, a load out of step among them, `RESET` then `LOAD r, B` loads `B` into register `r` (R64, R112).
Rests on the decisions named at ResetWriteEffect and FiveShiftWritesCommitRegister. -/
def Obligations.ResetThenLoadReachesRegister : Prop :=
  ∀ (s : State) (r : Fin 4) (b : Reg5) (rest : List Txn),
    s.pending = resetTxns ++ loadTxns r b ++ rest →
    ∃ s₁ s₂, core.run 1 s = .next s₁ ∧ s₁.bankSelect = 0 ∧ s₁.control.prgMode = .switchLast ∧
      core.run 5 s₁ = .next s₂ ∧ s₂.pending = rest ∧ s₂.count = 0 ∧ s₂.accum = 0 ∧
      State.Committed r.val b.toNat s₁ s₂

/-- Reads, RAM writes and failed accesses between the writes of a load change nothing in it (R82, R112): a list of
transactions takes the port, the registers and the bases to where its register-port writes alone take
them. -/
def Obligations.PortIgnoresOtherTraffic : Prop :=
  ∀ (s : State) (ts : List Txn),
    ∃ s₁ s₂, core.run ts.length { s with pending := ts } = .next s₁ ∧
      core.run (ts.filter isPortWrite).length { s with pending := ts.filter isPortWrite } = .next s₂ ∧
      s₁.SamePort s₂

/-- The ignored bits (R62): a reset write's address and low data bits; a shift write's address, unless it commits,
and its data bits 6 to 1; the data of a write below the window; the data byte of a read. -/
def Obligations.IgnoredBitsHaveNoEffect : Prop :=
  ∀ (s : State) (a a' : Addr) (v v' : Byte),
    (0x8000 ≤ a.toNat → 0x8000 ≤ a'.toNat → v.toNat ≥ 0x80 → v'.toNat ≥ 0x80 →
      step (s.issueNext (.wr a v)) = step (s.issueNext (.wr a' v'))) ∧
    (0x8000 ≤ a.toNat → 0x8000 ≤ a'.toNat → v.toNat < 0x80 → v'.toNat < 0x80 →
      v.toNat % 2 = v'.toNat % 2 → (s.count.val = 4 → a.toNat / 0x2000 = a'.toNat / 0x2000) →
      step (s.issueNext (.wr a v)) = step (s.issueNext (.wr a' v'))) ∧
    (a.toNat < 0x6000 → step (s.issueNext (.wr a v)) = step (s.issueNext (.wr a v'))) ∧
    (step (s.issueNext ⟨.read, a, v⟩) = step (s.issueNext ⟨.read, a, v'⟩))

/-! ### The bank-mode selector -/

/-- The PRG mode encoding (R57): the spec's decision D1, from general knowledge (log 8). -/
def Obligations.PrgModeEncoding : Prop :=
  prgModeOf 0 = .switchBoth ∧ prgModeOf 1 = .switchBoth ∧ prgModeOf 2 = .switchFirst ∧
  prgModeOf 3 = .switchLast

/-- `bases` in numbers, mode by mode (R83 to R86), with every index reduced `mod N` (D5, log 11); where no index
reaches `N` these are REMY's own formulas. -/
def Obligations.BasesFollowModeFormulas : Prop :=
  ∀ (n : Nat) (b : BitVec 4), 1 ≤ n →
    bases n .switchBoth b =
      (b.toNat / 2 * 2 % n * 16384, (b.toNat / 2 * 2 + 1) % n * 16384) ∧
    bases n .switchFirst b = (0, b.toNat % n * 16384) ∧
    bases n .switchLast b = (b.toNat % n * 16384, (n - 1) * 16384) ∧
    (b.toNat < n → bases n .switchFirst b = (0, b.toNat * 16384) ∧
      bases n .switchLast b = (b.toNat * 16384, (n - 1) * 16384)) ∧
    (b.toNat / 2 * 2 + 1 < n → bases n .switchBoth b =
      (b.toNat / 2 * 2 * 16384, b.toNat / 2 * 2 * 16384 + 16384))

/-- Both bases are "always multiples of 16 KiB and within `[0, rom.length)`" (R22 (a), R83), for every `N >= 1`; the
means, the modulo, is D5 (log 11). -/
def Obligations.BasesAreBanksOfTheRom : Prop :=
  ∀ (n : Nat) (mode : PrgMode) (b : BitVec 4), 1 ≤ n →
    (bases n mode b).1 % 16384 = 0 ∧ (bases n mode b).1 < n * 16384 ∧
    (bases n mode b).2 % 16384 = 0 ∧ (bases n mode b).2 < n * 16384

/-- `SwitchBoth` (R84): for an even `N` the second base is the first plus 16 KiB; for an odd `N` the pair wraps to bank
0 when the first is the last bank; `bankSelect` 2k and 2k + 1 give the same bases. Rests on D5 (log 11). -/
def Obligations.SwitchBothShowsPair : Prop :=
  ∀ (n : Nat) (b b' : BitVec 4), 1 ≤ n →
    (n % 2 = 0 → (bases n .switchBoth b).2 = (bases n .switchBoth b).1 + 16384) ∧
    ((bases n .switchBoth b).1 = (n - 1) * 16384 → (bases n .switchBoth b).2 = 0) ∧
    (b.toNat / 2 = b'.toNat / 2 → bases n .switchBoth b = bases n .switchBoth b')

/-- With `N = 1` both windows read the same byte in every mode and for every bank select (R107, derived by the
spec). -/
def Obligations.SingleBankWindowsAgree : Prop :=
  ∀ (s : State) (w : Nat) (rest : List Txn), s.Inv → s.cart.romBanks = 1 → w < 16384 →
    s.pending = Txn.rd (BitVec.ofNat 16 (0x8000 + w)) :: Txn.rd (BitVec.ofNat 16 (0xC000 + w)) :: rest →
    ∃ s₁ s₂, step s = .next s₁ ∧ step s₁ = .next s₂ ∧
      s₁.answer = some (.okByte (s.cart.rom.read w)) ∧ s₂.answer = s₁.answer

/-- Only banks 0 to 15 and the last bank can ever be read (R89, derived by the spec): every ROM read answers a byte
of such a bank, at the offset `addr[13:0]`. -/
def Obligations.ReachableBanks : Prop :=
  ∀ (s : State) (a : Addr) (rest : List Txn), s.Inv → 0x8000 ≤ a.toNat → s.pending = Txn.rd a :: rest →
    ∃ s' k, step s = .next s' ∧ k < s.cart.romBanks ∧ (k < 16 ∨ k = s.cart.romBanks - 1) ∧
      s'.answer = some (.okByte (s.cart.rom.read (k * 16384 + a.toNat % 16384)))

/-- The first read after a commit already uses the new bases, with nothing to flush (R44): a commit to the PRG
bank or to the control register, then a ROM read. Rests on the decisions named at the two commits. -/
def Obligations.ReadAfterCommitUsesNewBases : Prop :=
  ∀ (s : State) (a r : Addr) (v : Byte) (rest : List Txn), s.Inv → s.count.val = 4 → v.toNat < 0x80 →
    0x8000 ≤ r.toNat → s.pending = Txn.wr a v :: Txn.rd r :: rest →
    (0xE000 ≤ a.toNat → ∃ s₁ s₂, step s = .next s₁ ∧ step s₁ = .next s₂ ∧
      s₂.answer = some (.okByte (s.cart.rom.read
        ((if r.toNat < 0xC000
          then (bases s.cart.romBanks s.control.prgMode (BitVec.ofNat 4 (s.shifted v))).1
          else (bases s.cart.romBanks s.control.prgMode (BitVec.ofNat 4 (s.shifted v))).2)
          + r.toNat % 16384)))) ∧
    (0x8000 ≤ a.toNat → a.toNat < 0xA000 → ∃ s₁ s₂, step s = .next s₁ ∧ step s₁ = .next s₂ ∧
      s₂.answer = some (.okByte (s.cart.rom.read
        ((if r.toNat < 0xC000
          then (bases s.cart.romBanks (prgModeOf (BitVec.ofNat 2 (s.shifted v / 4))) s.bankSelect).1
          else (bases s.cart.romBanks (prgModeOf (BitVec.ofNat 2 (s.shifted v / 4))) s.bankSelect).2)
          + r.toNat % 16384))))

/-! ### Errors -/

/-- Every transaction ends with `Ok(byte)` or `OutOfBounds` (a read), `Ok` or `OutOfBounds` (a write), and no step faults,
hangs or is refused; `InvalidRom` comes from construction alone, which has no other error (R90). -/
def Obligations.EveryTransactionIsAnswered : Prop :=
  (∀ (s : State) (t : Txn) (rest : List Txn), s.pending = t :: rest →
    ∃ s', step s = .next s' ∧ s'.pending = rest ∧
      match t.rw with
      | .read => s'.answer = some .outOfBounds ∨ ∃ v, s'.answer = some (.okByte v)
      | .write => s'.answer = some .outOfBounds ∨ s'.answer = some .ok) ∧
  (∀ (s : State), ∃ s', step s = .next s') ∧
  (∀ (bytes : List Byte) (init : Nat → Byte) (sink : Bool),
    construct bytes init sink = .fault .invalidRom ∨ ∃ s, construct bytes init sink = .next s)

/-- In this hardware's default configuration a transaction answers `OutOfBounds` exactly when its address is below
`$6000` (R91). -/
def Obligations.OutOfBoundsExactlyBelowWindow : Prop :=
  ∀ (s : State) (t : Txn) (rest : List Txn), s.Inv → s.cart.ramPresent = true → s.pending = t :: rest →
    ∃ s', step s = .next s' ∧ (s'.answer = some .outOfBounds ↔ t.addr.toNat < 0x6000)

/-- A transaction that fails, for whatever reason, leaves every item of R10 as it was, and the run goes on with the next
one (R95, R96; the spec's decision D12, log 16). -/
def Obligations.FailedAccessChangesNothing : Prop :=
  ∀ (s s' : State) (t : Txn) (rest : List Txn), s.pending = t :: rest → step s = .next s' →
    s'.answer = some .outOfBounds → s.SameUnit s' ∧ s'.pending = rest

/-! ### The whole machine -/

/-- The invariant of R22 is kept by every step: the bases are those of the mode and the bank select, the unwritten
accumulator bits are 0 (so `accum = 0` when `count = 0`), and the memories keep their canonical form. -/
def Obligations.StepKeepsInvariant : Prop :=
  ∀ s t : State, s.Inv → step s = .next t → t.Inv

/-- No step changes the ROM, `N` or another parameter of the run (R12, R26). -/
def Obligations.StepKeepsRomAndParameters : Prop :=
  ∀ s t : State, step s = .next t → t.cart = s.cart

/-- The "written by" column of R10: a register or memory changes only through the operations named there. -/
def Obligations.WrittenOnlyByNamedOperations : Prop :=
  ∀ (i : Instr) (s t : State), exec i s = .next t →
    (t.ram ≠ s.ram → i.mnemonic = "WRITE_RAM") ∧
    (t.accum ≠ s.accum ∨ t.count ≠ s.count → i.mnemonic ∈
      ["WRITE_SHIFT", "COMMIT_CTRL", "COMMIT_CHR0", "COMMIT_CHR1", "COMMIT_PRG", "WRITE_RESET"]) ∧
    (t.control.prgMode ≠ s.control.prgMode → i.mnemonic ∈ ["COMMIT_CTRL", "WRITE_RESET"]) ∧
    (t.control.chrMode ≠ s.control.chrMode ∨ t.control.mirror ≠ s.control.mirror →
      i.mnemonic = "COMMIT_CTRL") ∧
    (t.bankSelect ≠ s.bankSelect → i.mnemonic ∈ ["COMMIT_PRG", "WRITE_RESET"]) ∧
    (t.chrBank0 ≠ s.chrBank0 → i.mnemonic ∈ ["COMMIT_CHR0", "WRITE_RESET"]) ∧
    (t.chrBank1 ≠ s.chrBank1 → i.mnemonic ∈ ["COMMIT_CHR1", "WRITE_RESET"]) ∧
    (t.prgBase0 ≠ s.prgBase0 ∨ t.prgBase1 ≠ s.prgBase1 →
      i.mnemonic ∈ ["COMMIT_CTRL", "COMMIT_PRG", "WRITE_RESET"])

/-- Every byte of both memories reads as before after every operation but WRITE_RAM, and WRITE_RAM leaves every ROM byte
and every RAM byte but the one at `ramOffset` (R12, R40, R71, R117). -/
def Obligations.MemoryFrame : Prop :=
  ∀ (i : Instr) (s t : State), exec i s = .next t →
    (∀ off, t.romGet off = s.romGet off) ∧
    (∀ off, (∀ a v, i = .writeRam a v → off ≠ ramOffset a) → t.ramGet off = s.ramGet off)

/-- A read of a RAM address returns the value of the latest earlier write to the same offset, or what the RAM held
there if none (R41 (a)), whatever other transactions come between. -/
def Obligations.RamReadReturnsLatestWrite : Prop :=
  ∀ (s : State) (ts : List Txn) (off : Nat), s.Inv → s.cart.ramPresent = true → off < 8192 →
    s.pending = ts ++ [Txn.rd (BitVec.ofNat 16 (0x6000 + off))] →
    ∃ s', core.run (ts.length + 1) s = .next s' ∧
      s'.answer = some (.okByte ((latestRamWrite off ts).getD (s.ram.read off)))

/-- The twelve operations are REMY's two contracts: a step answers and changes what `translate` on a read, and the one
path that shifts, counts to 5 and commits on a write, answer and change (R36, R60, R73 to R76). -/
def Obligations.StepRefinesContracts : Prop :=
  ∀ (s : State) (t : Txn) (rest : List Txn), s.pending = t :: rest →
    step s = .next (State.contract t { s with pending := rest })

/-- The facade's two PRG views pass reads and writes through to the unit unchanged, at every virtual address (R48); that
a view is 65536 long is D17 (log 17). -/
def Obligations.FacadeDelegates : Prop :=
  ∀ (s : State) (view : PrgView) (a : Addr) (v : Byte),
    a.toNat < view.length ∧
    step (s.issueNext (.rd a)) = .next (view.get a.toNat s) ∧
    step (s.issueNext (.wr a v)) = .next (PrgView.setMut a.toNat v s)

/-- What an attached sink is shown (R102): the tuple of a decoded RAM or ROM access, nothing for a register-port write or a
failed access (D18, log 18). -/
def Obligations.SinkSeesDecodedAccesses : Prop :=
  ∀ (s : State) (a : Addr) (v : Byte) (t : State), s.Inv → s.cart.ramPresent = true → s.cart.sink = true →
    (a.toNat < 0x6000 → step (s.issueNext (.rd a)) = .next t → t.observation = none) ∧
    (a.toNat < 0x6000 → step (s.issueNext (.wr a v)) = .next t → t.observation = none) ∧
    (0x6000 ≤ a.toNat → a.toNat < 0x8000 → step (s.issueNext (.rd a)) = .next t →
      t.observation = some ⟨a, a.toNat - 0x6000, .ram, 0⟩) ∧
    (0x6000 ≤ a.toNat → a.toNat < 0x8000 → step (s.issueNext (.wr a v)) = .next t →
      t.observation = some ⟨a, a.toNat - 0x6000, .ram, 0⟩) ∧
    (0x8000 ≤ a.toNat → a.toNat < 0xC000 → step (s.issueNext (.rd a)) = .next t →
      t.observation = some ⟨a, s.prgBase0 + (a.toNat - 0x8000), .rom, s.prgBase0 / 16384⟩) ∧
    (0xC000 ≤ a.toNat → step (s.issueNext (.rd a)) = .next t →
      t.observation = some ⟨a, s.prgBase1 + (a.toNat - 0xC000), .rom, s.prgBase1 / 16384⟩) ∧
    (0x8000 ≤ a.toNat → step (s.issueNext (.wr a v)) = .next t → t.observation = none)

/-- The observation never feeds back, and the absence of a sink is a no-op (R102): a step without the sink is the step with
it, less what the sink was shown. -/
def Obligations.SinkNeverFeedsBack : Prop :=
  ∀ s : State, step s.withoutSink = mapNext State.withoutSink (step s)

/-- "Nothing in this block reads" `chrMode`, `mirror` or the CHR latches (R17, R18, R20): a step from the state with them at 0
gives the same answer and the same state, those latches apart. -/
def Obligations.UnreadLatchesDoNotInterfere : Prop :=
  ∀ s : State, mapNext State.withoutLatches (step s.withoutLatches) = mapNext State.withoutLatches (step s)
end

