-- ==== Sys2Proof/Laws/Memory.lean ====
section
/-! SUPPORT. The laws of a memory region: read after write, the canonical form and the bounds that every
operation keeps, what the regions built at reset and at construction hold, and that equal contents are
equal lists. -/

namespace Sys2Proof.Machine.Memory

@[simp] theorem read_nil (off : Nat) : read [] off = unlisted := rfl

theorem read_cons (a : Nat) (v : Byte) (m : Memory) (off : Nat) :
    read ((a, v) :: m) off = if off = a then v else read m off := rfl

@[simp] theorem wfFrom_nil (lo : Nat) : wfFrom lo [] = true := rfl

theorem wfFrom_cons {lo a : Nat} {v : Byte} {m : Memory} :
    wfFrom lo ((a, v) :: m) = true ↔ lo ≤ a ∧ v ≠ unlisted ∧ wfFrom (a + 1) m = true := by
  simp [wfFrom, and_assoc]

/-- A canonical list may be taken to start lower. -/
theorem wfFrom_mono {lo lo' : Nat} {m : Memory} (h : wfFrom lo m = true) (hle : lo' ≤ lo) :
    wfFrom lo' m = true := by
  cases m with
  | nil => rfl
  | cons c m =>
    obtain ⟨a, v⟩ := c
    rw [wfFrom_cons] at h ⊢
    exact ⟨by omega, h.2⟩

/-- Below its first offset a canonical list lists nothing. -/
theorem read_below {m : Memory} : ∀ {lo off : Nat}, wfFrom lo m = true → off < lo → read m off = unlisted := by
  induction m with
  | nil => intros; rfl
  | cons c m ih =>
    obtain ⟨a, v⟩ := c
    intro lo off h hlt
    rw [wfFrom_cons] at h
    rw [read_cons, if_neg (by omega)]
    exact ih h.2.2 (by omega)

/-- A byte reads back as it was written. -/
theorem read_write_same {m : Memory} : ∀ {lo : Nat}, wfFrom lo m = true → ∀ (off : Nat) (v : Byte),
    read (write m off v) off = v := by
  induction m with
  | nil =>
    intro lo _ off v
    by_cases hv : v = unlisted <;> simp [write, hv, read]
  | cons c m ih =>
    obtain ⟨a, w⟩ := c
    intro lo h off v
    rw [wfFrom_cons] at h
    rcases Nat.lt_trichotomy off a with hlt | rfl | hgt
    · by_cases hv : v = unlisted
      · simp only [write, if_pos hlt, if_pos hv, read_cons, if_neg (Nat.ne_of_lt hlt)]
        rw [read_below h.2.2 (by omega), hv]
      · simp [write, hlt, hv, read_cons]
    · by_cases hv : v = unlisted
      · simp only [write, Nat.lt_irrefl, if_false, if_true, if_pos hv]
        rw [read_below h.2.2 (by omega), hv]
      · simp [write, hv, read_cons]
    · simp only [write, if_neg (Nat.not_lt.mpr (Nat.le_of_lt hgt)), if_neg (Nat.ne_of_gt hgt), read_cons]
      exact ih h.2.2 off v

/-- A write leaves every other byte alone. -/
theorem read_write_other {m : Memory} {off k : Nat} (v : Byte) (hk : k ≠ off) :
    read (write m off v) k = read m k := by
  induction m with
  | nil => by_cases hv : v = unlisted <;> simp [write, hv, read_cons, hk]
  | cons c m ih =>
    obtain ⟨a, w⟩ := c
    rcases Nat.lt_trichotomy off a with hlt | rfl | hgt
    · by_cases hv : v = unlisted <;> simp [write, hlt, hv, read_cons, hk]
    · by_cases hv : v = unlisted <;> simp [write, hv, read_cons, hk]
    · simp only [write, if_neg (Nat.not_lt.mpr (Nat.le_of_lt hgt)), if_neg (Nat.ne_of_gt hgt), read_cons, ih]

theorem write_wfFrom {m : Memory} : ∀ {lo : Nat}, wfFrom lo m = true → ∀ {off : Nat} (v : Byte),
    lo ≤ off → wfFrom lo (write m off v) = true := by
  induction m with
  | nil =>
    intro lo _ off v hle
    by_cases hv : v = unlisted <;> simp [write, hv, wfFrom_cons, hle]
  | cons c m ih =>
    obtain ⟨a, w⟩ := c
    intro lo h off v hle
    have h' := h
    rw [wfFrom_cons] at h
    rcases Nat.lt_trichotomy off a with hlt | rfl | hgt
    · by_cases hv : v = unlisted
      · simpa [write, hlt, hv] using h'
      · simp only [write, if_pos hlt, if_neg hv, wfFrom_cons]
        exact ⟨hle, hv, by omega, h.2⟩
    · by_cases hv : v = unlisted
      · simpa [write, hv] using wfFrom_mono h.2.2 (by omega)
      · simp only [write, Nat.lt_irrefl, if_false, if_true, if_neg hv, wfFrom_cons]
        exact ⟨hle, hv, h.2.2⟩
    · simp only [write, if_neg (Nat.not_lt.mpr (Nat.le_of_lt hgt)), if_neg (Nat.ne_of_gt hgt), wfFrom_cons]
      exact ⟨h.1, h.2.1, ih h.2.2 v (by omega)⟩

/-- A write keeps the canonical form. -/
theorem write_wf {m : Memory} (h : wf m = true) (off : Nat) (v : Byte) : wf (write m off v) = true :=
  write_wfFrom h v (Nat.zero_le off)

theorem within_iff {size : Nat} {m : Memory} : within size m = true ↔ ∀ c ∈ m, c.1 < size := by
  simp [within]

/-- A write inside the region keeps every listed offset inside it. -/
theorem write_within {size : Nat} {m : Memory} {off : Nat} (v : Byte) (h : within size m = true)
    (ho : off < size) : within size (write m off v) = true := by
  rw [within_iff] at h ⊢
  induction m with
  | nil =>
    intro c hc
    by_cases hv : v = unlisted <;> simp [write, hv] at hc
    subst hc
    exact ho
  | cons d m ih =>
    obtain ⟨a, w⟩ := d
    have ha : a < size := h (a, w) (by simp)
    have hm : ∀ c ∈ m, c.1 < size := fun c hc => h c (by simp [hc])
    intro c hc
    rcases Nat.lt_trichotomy off a with hlt | rfl | hgt
    · by_cases hv : v = unlisted
      · exact h c (by simpa [write, hlt, hv] using hc)
      · simp only [write, if_pos hlt, if_neg hv, List.mem_cons] at hc
        rcases hc with rfl | rfl | hc
        exacts [ho, ha, hm c hc]
    · by_cases hv : v = unlisted
      · exact hm c (by simpa [write, hv] using hc)
      · simp only [write, Nat.lt_irrefl, if_false, if_true, if_neg hv, List.mem_cons] at hc
        rcases hc with rfl | hc
        exacts [ho, hm c hc]
    · simp only [write, if_neg (Nat.not_lt.mpr (Nat.le_of_lt hgt)), if_neg (Nat.ne_of_gt hgt),
        List.mem_cons] at hc
      rcases hc with rfl | hc
      exacts [ha, ih hm c hc]

/-- Inside the region, `set` is `write`. -/
theorem set_eq {size : Nat} {m : Memory} {off : Nat} (v : Byte) (h : off < size) :
    set size m off v = some (write m off v) := if_pos h

/-- Inside the region, `get` is `read`. -/
theorem get_eq {size : Nat} {m : Memory} {off : Nat} (h : off < size) :
    get size m off = some (read m off) := if_pos h

theorem get_none {size : Nat} {m : Memory} {off : Nat} (h : size ≤ off) : get size m off = none :=
  if_neg (Nat.not_lt.mpr h)

/-- Equal contents are equal data: a canonical list is determined by what it reads. -/
theorem ext_from {m : Memory} : ∀ {m' : Memory} {lo : Nat}, wfFrom lo m = true → wfFrom lo m' = true →
    (∀ off, read m off = read m' off) → m = m' := by
  induction m with
  | nil =>
    intro m' lo _ h' hr
    cases m' with
    | nil => rfl
    | cons c m' =>
      obtain ⟨a, v⟩ := c
      rw [wfFrom_cons] at h'
      exact absurd (by simpa [read_cons] using (hr a).symm) h'.2.1
  | cons c m ih =>
    obtain ⟨a, v⟩ := c
    intro m' lo h h' hr
    rw [wfFrom_cons] at h
    cases m' with
    | nil => exact absurd (by simpa [read_cons] using hr a) h.2.1
    | cons c' m' =>
      obtain ⟨a', v'⟩ := c'
      rw [wfFrom_cons] at h'
      have ha : a = a' := by
        rcases Nat.lt_trichotomy a a' with hlt | heq | hgt
        · have := hr a
          rw [read_cons, if_pos rfl, read_cons, if_neg (by omega),
            read_below h'.2.2 (by omega)] at this
          exact absurd this h.2.1
        · exact heq
        · have := hr a'
          rw [read_cons, if_neg (by omega), read_below h.2.2 (by omega), read_cons, if_pos rfl] at this
          exact absurd this.symm h'.2.1
      subst ha
      have hv : v = v' := by simpa [read_cons] using hr a
      subst hv
      have : m = m' := by
        refine ih h.2.2 h'.2.2 fun off => ?_
        by_cases hoff : off < a + 1
        · rw [read_below h.2.2 hoff, read_below h'.2.2 hoff]
        · have := hr off
          rwa [read_cons, if_neg (by omega), read_cons, if_neg (by omega)] at this
      rw [this]

theorem ext {m m' : Memory} (h : wf m = true) (h' : wf m' = true) (hr : ∀ off, read m off = read m' off) :
    m = m' := ext_from h h' hr

/-! ### Regions built from a function or a sequence of bytes -/

theorem ofFnFrom_wfFrom (f : Nat → Byte) (n : Nat) : ∀ lo, wfFrom lo (ofFnFrom f lo n) = true := by
  induction n with
  | zero => intro lo; rfl
  | succ n ih =>
    intro lo
    by_cases hv : f lo = unlisted
    · simpa [ofFnFrom, hv] using wfFrom_mono (ih (lo + 1)) (by omega)
    · simp only [ofFnFrom, if_neg hv, wfFrom_cons]
      exact ⟨le_rfl, hv, ih (lo + 1)⟩

theorem ofFn_wf (size : Nat) (f : Nat → Byte) : wf (ofFn size f) = true := by
  rw [ofFn]
  exact ofFnFrom_wfFrom f size 0

theorem ofFnFrom_lt (f : Nat → Byte) (n : Nat) : ∀ lo, ∀ c ∈ ofFnFrom f lo n, c.1 < lo + n := by
  induction n with
  | zero => intro lo c hc; simp [ofFnFrom] at hc
  | succ n ih =>
    intro lo c hc
    by_cases hv : f lo = unlisted
    · have := ih (lo + 1) c (by simpa [ofFnFrom, hv] using hc)
      omega
    · simp only [ofFnFrom, if_neg hv, List.mem_cons] at hc
      rcases hc with rfl | hc
      · simp
      · have := ih (lo + 1) c hc
        omega

theorem ofFn_within (size : Nat) (f : Nat → Byte) : within size (ofFn size f) = true := by
  rw [within_iff, ofFn]
  intro c hc
  have := ofFnFrom_lt f size 0 c hc
  omega

theorem read_ofFnFrom (f : Nat → Byte) (n : Nat) : ∀ lo off, lo ≤ off → off < lo + n →
    read (ofFnFrom f lo n) off = f off := by
  induction n with
  | zero => intro lo off h1 h2; omega
  | succ n ih =>
    intro lo off h1 h2
    by_cases heq : off = lo
    · subst heq
      by_cases hv : f off = unlisted
      · simp only [ofFnFrom, if_pos hv]
        rw [read_below (ofFnFrom_wfFrom f n (off + 1)) (by omega), hv]
      · simp [ofFnFrom, hv, read_cons]
    · by_cases hv : f lo = unlisted
      · simpa [ofFnFrom, hv] using ih (lo + 1) off (by omega) (by omega)
      · simpa [ofFnFrom, hv, read_cons, heq] using ih (lo + 1) off (by omega) (by omega)

/-- The region holds the function's byte at each of its offsets. -/
theorem read_ofFn {size off : Nat} (f : Nat → Byte) (h : off < size) : read (ofFn size f) off = f off := by
  rw [ofFn]
  exact read_ofFnFrom f size 0 off (Nat.zero_le off) (by omega)

/-- A sequence of bytes is the function that gives its `i`-th byte. -/
theorem ofBytesFrom_eq (bytes : List Byte) : ∀ lo,
    ofBytesFrom lo bytes = ofFnFrom (fun off => bytes.getD (off - lo) unlisted) lo bytes.length := by
  induction bytes with
  | nil => intro lo; rfl
  | cons v vs ih =>
    intro lo
    have hcongr : ∀ (g g' : Nat → Byte) (n b : Nat), (∀ off, b ≤ off → g off = g' off) →
        ofFnFrom g b n = ofFnFrom g' b n := by
      intro g g' n
      induction n with
      | zero => intros; rfl
      | succ n ihn =>
        intro b hg
        simp only [ofFnFrom, hg b le_rfl, ihn (b + 1) fun off ho => hg off (by omega)]
    have htail : ofBytesFrom (lo + 1) vs
        = ofFnFrom (fun off => (v :: vs).getD (off - lo) unlisted) (lo + 1) vs.length := by
      rw [ih]
      refine hcongr _ _ _ _ fun off ho => ?_
      rw [show off - lo = off - (lo + 1) + 1 by omega, List.getD_cons_succ]
    simp [ofBytesFrom, ofFnFrom, htail]

theorem ofBytes_wf (bytes : List Byte) : wf (ofBytes bytes) = true := by
  rw [ofBytes, ofBytesFrom_eq]
  exact ofFnFrom_wfFrom _ _ 0

theorem ofBytes_within (bytes : List Byte) : within bytes.length (ofBytes bytes) = true := by
  rw [ofBytes, ofBytesFrom_eq, within_iff]
  intro c hc
  have := ofFnFrom_lt _ _ _ c hc
  omega

/-- "offset `i` is byte `i`" (R108). -/
theorem read_ofBytes {bytes : List Byte} {off : Nat} (h : off < bytes.length) :
    read (ofBytes bytes) off = bytes.getD off unlisted := by
  rw [ofBytes, ofBytesFrom_eq, read_ofFnFrom _ _ 0 off (Nat.zero_le off) (by omega)]
  rfl

end Sys2Proof.Machine.Memory
end

