-- ==== Sys2Proof/Laws/Operands.lean ====
section
/-! SUPPORT. Each operand form as arithmetic on numbers: the bit tests are the range tests (20_memory.md
R32), the fields are quotients and remainders, and the shift is `accum / 2 + 16 * value[0]`. -/

namespace Sys2Proof.Machine

theorem regionOf_toNat (a : Addr) : (regionOf a).toNat = a.toNat / 8192 := by
  have := a.isLt
  simp only [regionOf, BitVec.extractLsb'_toNat, Nat.shiftRight_eq_div_pow]
  omega

theorem belowWindow_iff (a : Addr) : belowWindow a = true ↔ a.toNat < 0x6000 := by
  simp only [belowWindow, regionOf_toNat, decide_eq_true_eq]
  omega

theorem inRamWindow_iff (a : Addr) : inRamWindow a = true ↔ 0x6000 ≤ a.toNat ∧ a.toNat < 0x8000 := by
  simp only [inRamWindow, regionOf_toNat, decide_eq_true_eq]
  omega

theorem inWindow1_iff (a : Addr) : inWindow1 a = true ↔ a.toNat / 0x4000 % 2 = 1 := by
  simp [inWindow1, BitVec.getLsbD, Nat.testBit_eq_decide_div_mod_eq]

theorem isResetWrite_iff (v : Byte) : isResetWrite v = true ↔ 0x80 ≤ v.toNat := by
  have := v.isLt
  simp only [isResetWrite, BitVec.getLsbD, Nat.testBit_eq_decide_div_mod_eq, decide_eq_true_eq]
  omega

theorem isFifthWrite_iff (c : Fin 5) : isFifthWrite c = true ↔ c.val = 4 := by
  simp [isFifthWrite]

theorem registerSelect_toNat (a : Addr) : (registerSelect a).toNat = a.toNat / 0x2000 % 4 := by
  simp [registerSelect, Nat.shiftRight_eq_div_pow]

theorem ramOffset_lt (a : Addr) : ramOffset a < 8192 := Nat.mod_lt _ (by decide)

/-- "with `RAM_SIZE = 8192` the `mod` never reduces" (R66). -/
theorem ramOffset_eq {a : Addr} (h : a.toNat < 0x8000) : ramOffset a = a.toNat - 0x6000 := by
  simp only [ramOffset, ramOffsetIn, Config.ramStart_eq, Config.ramSize_eq]
  omega

theorem window0Offset_lt (a : Addr) : window0Offset a < 16384 := Nat.mod_lt _ (by decide)

theorem window1Offset_lt (a : Addr) : window1Offset a < 16384 := Nat.mod_lt _ (by decide)

theorem dataBit_toNat (v : Byte) : (dataBit v).toNat = v.toNat % 2 := by
  simp [dataBit]

/-- "the two operands never overlap" (R88 (e)), so the or is a sum. -/
theorem shiftIn_toNat (a : Reg5) (v : Byte) :
    (shiftIn a v).toNat = a.toNat / 2 + v.toNat % 2 * 16 := by
  have h : ∀ (a : Reg5) (d : BitVec 1),
      ((a >>> 1) ||| (d.setWidth 5 <<< 4)).toNat = a.toNat / 2 + d.toNat * 16 := by decide
  rw [shiftIn, h, dataBit_toNat]

theorem prgBankField_toNat (b : Reg5) : (prgBankField b).toNat = b.toNat % 16 := by
  simp [prgBankField]

theorem prgModeField_toNat (b : Reg5) : (prgModeField b).toNat = b.toNat / 4 % 4 := by
  simp [prgModeField, Nat.shiftRight_eq_div_pow]

theorem chrModeField_toNat (b : Reg5) : (chrModeField b).toNat = b.toNat / 16 % 2 := by
  simp [chrModeField, Nat.shiftRight_eq_div_pow]

theorem mirrorField_toNat (b : Reg5) : (mirrorField b).toNat = b.toNat % 4 := by
  simp [mirrorField]

theorem evenBank_toNat (b : BitVec 4) : (evenBank b).toNat = b.toNat / 2 * 2 := by
  revert b
  decide

theorem bankBase_eq (n k : Nat) : bankBase n k = k % n * 16384 := rfl

/-- A base is a whole bank inside the ROM (R83). -/
theorem bankBase_add_lt {n : Nat} (k : Nat) {w : Nat} (hn : 1 ≤ n) (hw : w < 16384) :
    bankBase n k + w < n * 16384 := by
  have := Nat.mod_lt k hn
  rw [bankBase_eq]
  omega

theorem bases_switchFirst (n : Nat) (b : BitVec 4) : bases n .switchFirst b = (0, bankBase n b.toNat) := rfl

theorem bases_switchLast (n : Nat) (b : BitVec 4) :
    bases n .switchLast b = (bankBase n b.toNat, (n - 1) * 16384) := rfl

theorem bases_switchBoth (n : Nat) (b : BitVec 4) :
    bases n .switchBoth b = (bankBase n (b.toNat / 2 * 2), bankBase n (b.toNat / 2 * 2 + 1)) := by
  rw [bases, evenBank_toNat]

end Sys2Proof.Machine
end

