-- ==== Sys2Proof/Laws/State.lean ====
section
/-! SUPPORT. One lemma per field per update of State, so that no later proof unfolds a record update. -/

namespace Sys2Proof.Machine.State

variable (s : State)

/-! ### `respond`: the bus is answered -/

@[simp] theorem respond_cart (a : Answer) (o : Option Observation) : (s.respond a o).cart = s.cart := rfl
@[simp] theorem respond_ram (a : Answer) (o : Option Observation) : (s.respond a o).ram = s.ram := rfl
@[simp] theorem respond_accum (a : Answer) (o : Option Observation) : (s.respond a o).accum = s.accum := rfl
@[simp] theorem respond_count (a : Answer) (o : Option Observation) : (s.respond a o).count = s.count := rfl
@[simp] theorem respond_control (a : Answer) (o : Option Observation) : (s.respond a o).control = s.control := rfl
@[simp] theorem respond_bankSelect (a : Answer) (o : Option Observation) : (s.respond a o).bankSelect = s.bankSelect := rfl
@[simp] theorem respond_chrBank0 (a : Answer) (o : Option Observation) : (s.respond a o).chrBank0 = s.chrBank0 := rfl
@[simp] theorem respond_chrBank1 (a : Answer) (o : Option Observation) : (s.respond a o).chrBank1 = s.chrBank1 := rfl
@[simp] theorem respond_prgBase0 (a : Answer) (o : Option Observation) : (s.respond a o).prgBase0 = s.prgBase0 := rfl
@[simp] theorem respond_prgBase1 (a : Answer) (o : Option Observation) : (s.respond a o).prgBase1 = s.prgBase1 := rfl
@[simp] theorem respond_pending (a : Answer) (o : Option Observation) : (s.respond a o).pending = s.pending := rfl
@[simp] theorem respond_answer (a : Answer) (o : Option Observation) : (s.respond a o).answer = some a := rfl
@[simp] theorem respond_observation (a : Answer) (o : Option Observation) : (s.respond a o).observation = bif s.cart.sink then o else none := rfl

/-! ### `raiseOutOfBounds`: the transaction ends with an error -/

@[simp] theorem raiseOutOfBounds_cart : s.raiseOutOfBounds.cart = s.cart := rfl
@[simp] theorem raiseOutOfBounds_ram : s.raiseOutOfBounds.ram = s.ram := rfl
@[simp] theorem raiseOutOfBounds_accum : s.raiseOutOfBounds.accum = s.accum := rfl
@[simp] theorem raiseOutOfBounds_count : s.raiseOutOfBounds.count = s.count := rfl
@[simp] theorem raiseOutOfBounds_control : s.raiseOutOfBounds.control = s.control := rfl
@[simp] theorem raiseOutOfBounds_bankSelect : s.raiseOutOfBounds.bankSelect = s.bankSelect := rfl
@[simp] theorem raiseOutOfBounds_chrBank0 : s.raiseOutOfBounds.chrBank0 = s.chrBank0 := rfl
@[simp] theorem raiseOutOfBounds_chrBank1 : s.raiseOutOfBounds.chrBank1 = s.chrBank1 := rfl
@[simp] theorem raiseOutOfBounds_prgBase0 : s.raiseOutOfBounds.prgBase0 = s.prgBase0 := rfl
@[simp] theorem raiseOutOfBounds_prgBase1 : s.raiseOutOfBounds.prgBase1 = s.prgBase1 := rfl
@[simp] theorem raiseOutOfBounds_pending : s.raiseOutOfBounds.pending = s.pending := rfl
@[simp] theorem raiseOutOfBounds_answer : s.raiseOutOfBounds.answer = some .outOfBounds := rfl
@[simp] theorem raiseOutOfBounds_observation : s.raiseOutOfBounds.observation = none := by
  simp [raiseOutOfBounds, respond]

/-! ### `issue`: the bus queues a transaction -/

@[simp] theorem issue_cart (t : Txn) : (s.issue t).cart = s.cart := rfl
@[simp] theorem issue_ram (t : Txn) : (s.issue t).ram = s.ram := rfl
@[simp] theorem issue_accum (t : Txn) : (s.issue t).accum = s.accum := rfl
@[simp] theorem issue_count (t : Txn) : (s.issue t).count = s.count := rfl
@[simp] theorem issue_control (t : Txn) : (s.issue t).control = s.control := rfl
@[simp] theorem issue_bankSelect (t : Txn) : (s.issue t).bankSelect = s.bankSelect := rfl
@[simp] theorem issue_chrBank0 (t : Txn) : (s.issue t).chrBank0 = s.chrBank0 := rfl
@[simp] theorem issue_chrBank1 (t : Txn) : (s.issue t).chrBank1 = s.chrBank1 := rfl
@[simp] theorem issue_prgBase0 (t : Txn) : (s.issue t).prgBase0 = s.prgBase0 := rfl
@[simp] theorem issue_prgBase1 (t : Txn) : (s.issue t).prgBase1 = s.prgBase1 := rfl
@[simp] theorem issue_pending (t : Txn) : (s.issue t).pending = s.pending ++ [t] := rfl
@[simp] theorem issue_answer (t : Txn) : (s.issue t).answer = s.answer := rfl
@[simp] theorem issue_observation (t : Txn) : (s.issue t).observation = s.observation := rfl

/-! ### `issueNext`: the bus issues a transaction next -/

@[simp] theorem issueNext_cart (t : Txn) : (s.issueNext t).cart = s.cart := rfl
@[simp] theorem issueNext_ram (t : Txn) : (s.issueNext t).ram = s.ram := rfl
@[simp] theorem issueNext_accum (t : Txn) : (s.issueNext t).accum = s.accum := rfl
@[simp] theorem issueNext_count (t : Txn) : (s.issueNext t).count = s.count := rfl
@[simp] theorem issueNext_control (t : Txn) : (s.issueNext t).control = s.control := rfl
@[simp] theorem issueNext_bankSelect (t : Txn) : (s.issueNext t).bankSelect = s.bankSelect := rfl
@[simp] theorem issueNext_chrBank0 (t : Txn) : (s.issueNext t).chrBank0 = s.chrBank0 := rfl
@[simp] theorem issueNext_chrBank1 (t : Txn) : (s.issueNext t).chrBank1 = s.chrBank1 := rfl
@[simp] theorem issueNext_prgBase0 (t : Txn) : (s.issueNext t).prgBase0 = s.prgBase0 := rfl
@[simp] theorem issueNext_prgBase1 (t : Txn) : (s.issueNext t).prgBase1 = s.prgBase1 := rfl
@[simp] theorem issueNext_pending (t : Txn) : (s.issueNext t).pending = t :: s.pending := rfl
@[simp] theorem issueNext_answer (t : Txn) : (s.issueNext t).answer = s.answer := rfl
@[simp] theorem issueNext_observation (t : Txn) : (s.issueNext t).observation = s.observation := rfl

/-! ### `recomputeBases`: the bases follow the mode and the bank select -/

@[simp] theorem recomputeBases_cart : s.recomputeBases.cart = s.cart := rfl
@[simp] theorem recomputeBases_ram : s.recomputeBases.ram = s.ram := rfl
@[simp] theorem recomputeBases_accum : s.recomputeBases.accum = s.accum := rfl
@[simp] theorem recomputeBases_count : s.recomputeBases.count = s.count := rfl
@[simp] theorem recomputeBases_control : s.recomputeBases.control = s.control := rfl
@[simp] theorem recomputeBases_bankSelect : s.recomputeBases.bankSelect = s.bankSelect := rfl
@[simp] theorem recomputeBases_chrBank0 : s.recomputeBases.chrBank0 = s.chrBank0 := rfl
@[simp] theorem recomputeBases_chrBank1 : s.recomputeBases.chrBank1 = s.chrBank1 := rfl
@[simp] theorem recomputeBases_prgBase0 : s.recomputeBases.prgBase0 = (bases s.cart.romBanks s.control.prgMode s.bankSelect).1 := rfl
@[simp] theorem recomputeBases_prgBase1 : s.recomputeBases.prgBase1 = (bases s.cart.romBanks s.control.prgMode s.bankSelect).2 := rfl
@[simp] theorem recomputeBases_pending : s.recomputeBases.pending = s.pending := rfl
@[simp] theorem recomputeBases_answer : s.recomputeBases.answer = s.answer := rfl
@[simp] theorem recomputeBases_observation : s.recomputeBases.observation = s.observation := rfl

/-! ### `clearPort`: the port is cleared -/

@[simp] theorem clearPort_cart : s.clearPort.cart = s.cart := rfl
@[simp] theorem clearPort_ram : s.clearPort.ram = s.ram := rfl
@[simp] theorem clearPort_accum : s.clearPort.accum = 0 := rfl
@[simp] theorem clearPort_count : s.clearPort.count = 0 := rfl
@[simp] theorem clearPort_control : s.clearPort.control = s.control := rfl
@[simp] theorem clearPort_bankSelect : s.clearPort.bankSelect = s.bankSelect := rfl
@[simp] theorem clearPort_chrBank0 : s.clearPort.chrBank0 = s.chrBank0 := rfl
@[simp] theorem clearPort_chrBank1 : s.clearPort.chrBank1 = s.chrBank1 := rfl
@[simp] theorem clearPort_prgBase0 : s.clearPort.prgBase0 = s.prgBase0 := rfl
@[simp] theorem clearPort_prgBase1 : s.clearPort.prgBase1 = s.prgBase1 := rfl
@[simp] theorem clearPort_pending : s.clearPort.pending = s.pending := rfl
@[simp] theorem clearPort_answer : s.clearPort.answer = s.answer := rfl
@[simp] theorem clearPort_observation : s.clearPort.observation = s.observation := rfl

/-! ### `shiftPort`: one shift -/

@[simp] theorem shiftPort_cart (v : Byte) : (s.shiftPort v).cart = s.cart := rfl
@[simp] theorem shiftPort_ram (v : Byte) : (s.shiftPort v).ram = s.ram := rfl
@[simp] theorem shiftPort_accum (v : Byte) : (s.shiftPort v).accum = shiftIn s.accum v := rfl
@[simp] theorem shiftPort_count (v : Byte) : (s.shiftPort v).count = s.count + 1 := rfl
@[simp] theorem shiftPort_control (v : Byte) : (s.shiftPort v).control = s.control := rfl
@[simp] theorem shiftPort_bankSelect (v : Byte) : (s.shiftPort v).bankSelect = s.bankSelect := rfl
@[simp] theorem shiftPort_chrBank0 (v : Byte) : (s.shiftPort v).chrBank0 = s.chrBank0 := rfl
@[simp] theorem shiftPort_chrBank1 (v : Byte) : (s.shiftPort v).chrBank1 = s.chrBank1 := rfl
@[simp] theorem shiftPort_prgBase0 (v : Byte) : (s.shiftPort v).prgBase0 = s.prgBase0 := rfl
@[simp] theorem shiftPort_prgBase1 (v : Byte) : (s.shiftPort v).prgBase1 = s.prgBase1 := rfl
@[simp] theorem shiftPort_pending (v : Byte) : (s.shiftPort v).pending = s.pending := rfl
@[simp] theorem shiftPort_answer (v : Byte) : (s.shiftPort v).answer = s.answer := rfl
@[simp] theorem shiftPort_observation (v : Byte) : (s.shiftPort v).observation = s.observation := rfl

/-! ### `loadControl`: register 0 -/

@[simp] theorem loadControl_cart (b : Reg5) : (s.loadControl b).cart = s.cart := rfl
@[simp] theorem loadControl_ram (b : Reg5) : (s.loadControl b).ram = s.ram := rfl
@[simp] theorem loadControl_accum (b : Reg5) : (s.loadControl b).accum = s.accum := rfl
@[simp] theorem loadControl_count (b : Reg5) : (s.loadControl b).count = s.count := rfl
@[simp] theorem loadControl_control (b : Reg5) : (s.loadControl b).control = ⟨prgModeOf (prgModeField b), chrModeField b, mirrorField b⟩ := rfl
@[simp] theorem loadControl_bankSelect (b : Reg5) : (s.loadControl b).bankSelect = s.bankSelect := rfl
@[simp] theorem loadControl_chrBank0 (b : Reg5) : (s.loadControl b).chrBank0 = s.chrBank0 := rfl
@[simp] theorem loadControl_chrBank1 (b : Reg5) : (s.loadControl b).chrBank1 = s.chrBank1 := rfl
@[simp] theorem loadControl_prgBase0 (b : Reg5) : (s.loadControl b).prgBase0 = (bases s.cart.romBanks (prgModeOf (prgModeField b)) s.bankSelect).1 := rfl
@[simp] theorem loadControl_prgBase1 (b : Reg5) : (s.loadControl b).prgBase1 = (bases s.cart.romBanks (prgModeOf (prgModeField b)) s.bankSelect).2 := rfl
@[simp] theorem loadControl_pending (b : Reg5) : (s.loadControl b).pending = s.pending := rfl
@[simp] theorem loadControl_answer (b : Reg5) : (s.loadControl b).answer = s.answer := rfl
@[simp] theorem loadControl_observation (b : Reg5) : (s.loadControl b).observation = s.observation := rfl

/-! ### `loadChr0`: register 1 -/

@[simp] theorem loadChr0_cart (b : Reg5) : (s.loadChr0 b).cart = s.cart := rfl
@[simp] theorem loadChr0_ram (b : Reg5) : (s.loadChr0 b).ram = s.ram := rfl
@[simp] theorem loadChr0_accum (b : Reg5) : (s.loadChr0 b).accum = s.accum := rfl
@[simp] theorem loadChr0_count (b : Reg5) : (s.loadChr0 b).count = s.count := rfl
@[simp] theorem loadChr0_control (b : Reg5) : (s.loadChr0 b).control = s.control := rfl
@[simp] theorem loadChr0_bankSelect (b : Reg5) : (s.loadChr0 b).bankSelect = s.bankSelect := rfl
@[simp] theorem loadChr0_chrBank0 (b : Reg5) : (s.loadChr0 b).chrBank0 = b := rfl
@[simp] theorem loadChr0_chrBank1 (b : Reg5) : (s.loadChr0 b).chrBank1 = s.chrBank1 := rfl
@[simp] theorem loadChr0_prgBase0 (b : Reg5) : (s.loadChr0 b).prgBase0 = s.prgBase0 := rfl
@[simp] theorem loadChr0_prgBase1 (b : Reg5) : (s.loadChr0 b).prgBase1 = s.prgBase1 := rfl
@[simp] theorem loadChr0_pending (b : Reg5) : (s.loadChr0 b).pending = s.pending := rfl
@[simp] theorem loadChr0_answer (b : Reg5) : (s.loadChr0 b).answer = s.answer := rfl
@[simp] theorem loadChr0_observation (b : Reg5) : (s.loadChr0 b).observation = s.observation := rfl

/-! ### `loadChr1`: register 2 -/

@[simp] theorem loadChr1_cart (b : Reg5) : (s.loadChr1 b).cart = s.cart := rfl
@[simp] theorem loadChr1_ram (b : Reg5) : (s.loadChr1 b).ram = s.ram := rfl
@[simp] theorem loadChr1_accum (b : Reg5) : (s.loadChr1 b).accum = s.accum := rfl
@[simp] theorem loadChr1_count (b : Reg5) : (s.loadChr1 b).count = s.count := rfl
@[simp] theorem loadChr1_control (b : Reg5) : (s.loadChr1 b).control = s.control := rfl
@[simp] theorem loadChr1_bankSelect (b : Reg5) : (s.loadChr1 b).bankSelect = s.bankSelect := rfl
@[simp] theorem loadChr1_chrBank0 (b : Reg5) : (s.loadChr1 b).chrBank0 = s.chrBank0 := rfl
@[simp] theorem loadChr1_chrBank1 (b : Reg5) : (s.loadChr1 b).chrBank1 = b := rfl
@[simp] theorem loadChr1_prgBase0 (b : Reg5) : (s.loadChr1 b).prgBase0 = s.prgBase0 := rfl
@[simp] theorem loadChr1_prgBase1 (b : Reg5) : (s.loadChr1 b).prgBase1 = s.prgBase1 := rfl
@[simp] theorem loadChr1_pending (b : Reg5) : (s.loadChr1 b).pending = s.pending := rfl
@[simp] theorem loadChr1_answer (b : Reg5) : (s.loadChr1 b).answer = s.answer := rfl
@[simp] theorem loadChr1_observation (b : Reg5) : (s.loadChr1 b).observation = s.observation := rfl

/-! ### `loadPrg`: register 3 -/

@[simp] theorem loadPrg_cart (b : Reg5) : (s.loadPrg b).cart = s.cart := rfl
@[simp] theorem loadPrg_ram (b : Reg5) : (s.loadPrg b).ram = s.ram := rfl
@[simp] theorem loadPrg_accum (b : Reg5) : (s.loadPrg b).accum = s.accum := rfl
@[simp] theorem loadPrg_count (b : Reg5) : (s.loadPrg b).count = s.count := rfl
@[simp] theorem loadPrg_control (b : Reg5) : (s.loadPrg b).control = s.control := rfl
@[simp] theorem loadPrg_bankSelect (b : Reg5) : (s.loadPrg b).bankSelect = prgBankField b := rfl
@[simp] theorem loadPrg_chrBank0 (b : Reg5) : (s.loadPrg b).chrBank0 = s.chrBank0 := rfl
@[simp] theorem loadPrg_chrBank1 (b : Reg5) : (s.loadPrg b).chrBank1 = s.chrBank1 := rfl
@[simp] theorem loadPrg_prgBase0 (b : Reg5) : (s.loadPrg b).prgBase0 = (bases s.cart.romBanks s.control.prgMode (prgBankField b)).1 := rfl
@[simp] theorem loadPrg_prgBase1 (b : Reg5) : (s.loadPrg b).prgBase1 = (bases s.cart.romBanks s.control.prgMode (prgBankField b)).2 := rfl
@[simp] theorem loadPrg_pending (b : Reg5) : (s.loadPrg b).pending = s.pending := rfl
@[simp] theorem loadPrg_answer (b : Reg5) : (s.loadPrg b).answer = s.answer := rfl
@[simp] theorem loadPrg_observation (b : Reg5) : (s.loadPrg b).observation = s.observation := rfl

/-! ### `resetRegisters`: the registers a reset write sets -/

@[simp] theorem resetRegisters_cart : s.resetRegisters.cart = s.cart := rfl
@[simp] theorem resetRegisters_ram : s.resetRegisters.ram = s.ram := rfl
@[simp] theorem resetRegisters_accum : s.resetRegisters.accum = s.accum := rfl
@[simp] theorem resetRegisters_count : s.resetRegisters.count = s.count := rfl
@[simp] theorem resetRegisters_control : s.resetRegisters.control = { s.control with prgMode := modeReset } := rfl
@[simp] theorem resetRegisters_bankSelect : s.resetRegisters.bankSelect = bankReset := rfl
@[simp] theorem resetRegisters_chrBank0 : s.resetRegisters.chrBank0 = 0 := rfl
@[simp] theorem resetRegisters_chrBank1 : s.resetRegisters.chrBank1 = 0 := rfl
@[simp] theorem resetRegisters_prgBase0 : s.resetRegisters.prgBase0 = (bases s.cart.romBanks modeReset bankReset).1 := rfl
@[simp] theorem resetRegisters_prgBase1 : s.resetRegisters.prgBase1 = (bases s.cart.romBanks modeReset bankReset).2 := rfl
@[simp] theorem resetRegisters_pending : s.resetRegisters.pending = s.pending := rfl
@[simp] theorem resetRegisters_answer : s.resetRegisters.answer = s.answer := rfl
@[simp] theorem resetRegisters_observation : s.resetRegisters.observation = s.observation := rfl

/-! ### `powerOn` and `reset`: the state at power-on -/

@[simp] theorem powerOn_cart (c : Cart) (m : Memory) : (powerOn c m).cart = c := rfl
@[simp] theorem powerOn_ram (c : Cart) (m : Memory) : (powerOn c m).ram = m := rfl
@[simp] theorem powerOn_accum (c : Cart) (m : Memory) : (powerOn c m).accum = 0 := rfl
@[simp] theorem powerOn_count (c : Cart) (m : Memory) : (powerOn c m).count = 0 := rfl
@[simp] theorem powerOn_control (c : Cart) (m : Memory) : (powerOn c m).control = ⟨.switchLast, 0, 0⟩ := rfl
@[simp] theorem powerOn_bankSelect (c : Cart) (m : Memory) : (powerOn c m).bankSelect = 0 := rfl
@[simp] theorem powerOn_chrBank0 (c : Cart) (m : Memory) : (powerOn c m).chrBank0 = 0 := rfl
@[simp] theorem powerOn_chrBank1 (c : Cart) (m : Memory) : (powerOn c m).chrBank1 = 0 := rfl
@[simp] theorem powerOn_prgBase0 (c : Cart) (m : Memory) : (powerOn c m).prgBase0 = 0 := by
  simp [powerOn, modeReset, bankReset, bases, bankBase]
@[simp] theorem powerOn_prgBase1 (c : Cart) (m : Memory) :
    (powerOn c m).prgBase1 = (c.romBanks - 1) * Config.bankSize := rfl
@[simp] theorem powerOn_pending (c : Cart) (m : Memory) : (powerOn c m).pending = [] := rfl
@[simp] theorem powerOn_answer (c : Cart) (m : Memory) : (powerOn c m).answer = none := rfl
@[simp] theorem powerOn_observation (c : Cart) (m : Memory) : (powerOn c m).observation = none := rfl
theorem reset_ram : reset.ram = Memory.ofFn Config.ramSize Config.ramInit := rfl
theorem reset_rom : reset.cart.rom = Memory.ofFn (Config.romBanks * Config.bankSize) Config.romByte := rfl

end Sys2Proof.Machine.State
end

