-- ==== Sys2Proof/Laws/Ops.lean ====
section
/-! SUPPORT. What each shared operation can do, said once. -/

namespace Sys2Proof.Machine.State

/-- A read that reached its region answers the byte, or the region's own `OutOfBounds`. -/
theorem answerRead_cases (s : State) (got : Option Byte) (o : Observation) :
    (∃ v, got = some v ∧ s.answerRead got o = s.respond (.okByte v) (some o)) ∨
    (got = none ∧ s.answerRead got o = s.raiseOutOfBounds) := by
  cases got with
  | none => exact .inr ⟨rfl, rfl⟩
  | some v => exact .inl ⟨v, rfl, rfl⟩

theorem ramGet_eq {s : State} {off : Nat} (hp : s.cart.ramPresent = true) (h : off < 8192) :
    s.ramGet off = some (s.ram.read off) := by
  rw [ramGet, if_pos hp]
  exact Memory.get_eq h

theorem ramGet_absent {s : State} (hp : s.cart.ramPresent = false) (off : Nat) : s.ramGet off = none := by
  simp [ramGet, hp]

theorem romGet_eq {s : State} {off : Nat} (h : off < s.cart.romBanks * 16384) :
    s.romGet off = some (s.cart.rom.read off) := Memory.get_eq h

/-- A store with RAM on the cartridge writes the one byte and answers `Ok`. -/
theorem storeRam_present {s : State} (hp : s.cart.ramPresent = true) (addr : Addr) (v : Byte) :
    s.storeRam addr v =
      { s with ram := s.ram.write (ramOffset addr) v }.respond .ok (some (ramObservation addr)) := by
  have h : Memory.set Config.ramSize s.ram (ramOffset addr) v = some (s.ram.write (ramOffset addr) v) :=
    Memory.set_eq v (ramOffset_lt addr)
  rw [storeRam, if_pos hp, h]

/-- Everything a store to the RAM window can do. -/
theorem storeRam_cases (s : State) (addr : Addr) (v : Byte) :
    (s.cart.ramPresent = true ∧ s.storeRam addr v =
      { s with ram := s.ram.write (ramOffset addr) v }.respond .ok (some (ramObservation addr))) ∨
    (s.cart.ramPresent = false ∧ s.cart.ramAbsentWrite = .noop ∧
      s.storeRam addr v = s.respond .ok (some (ramObservation addr))) ∨
    (s.cart.ramPresent = false ∧ s.cart.ramAbsentWrite = .error ∧
      s.storeRam addr v = s.raiseOutOfBounds) := by
  cases hp : s.cart.ramPresent with
  | true => exact .inl ⟨rfl, storeRam_present hp addr v⟩
  | false =>
    cases ha : s.cart.ramAbsentWrite with
    | noop => exact .inr (.inl ⟨rfl, rfl, by simp [storeRam, hp, ha]⟩)
    | error => exact .inr (.inr ⟨rfl, rfl, by simp [storeRam, hp, ha]⟩)

/-- A commit is the register's own part, then the port cleared, then `Ok`. -/
theorem commit_eq (s : State) (load : Reg5 → State → State) (v : Byte) :
    s.commit load v = ((load (shiftIn s.accum v) s).clearPort).respond .ok none := rfl

/-- A cartridge with canonical memories powers on with them. -/
theorem powerOn_memories {cart : Cart} {ram : Memory} (hr : ram.wf = true)
    (hrw : ram.within Config.ramSize = true) (ho : cart.rom.wf = true)
    (how : cart.rom.within (cart.romBanks * Config.bankSize) = true) : (powerOn cart ram).MemoriesWf :=
  ⟨hr, hrw, ho, how⟩

/-- The memories at reset are canonical and inside their regions. -/
theorem reset_memories : reset.MemoriesWf :=
  powerOn_memories (Memory.ofFn_wf _ _) (Memory.ofFn_within _ _) (Memory.ofFn_wf _ _)
    (Memory.ofFn_within _ _)

/-- The empty list of transactions leaves the block as it is. -/
theorem step_idle {s : State} (h : s.pending = []) : step s = .next s := by
  rw [step, h]

/-- A pending transaction is decoded and executed. -/
theorem step_txn {s : State} {t : Txn} {rest : List Txn} (h : s.pending = t :: rest) :
    step s = exec (decode s.count t) { s with pending := rest } := by
  rw [step, h]

theorem withFetchWord_eq {s : State} {nbits w : Nat} {t : Txn} (h : txnOfTableWord nbits w = some t) :
    s.withFetchWord nbits w = s.issueNext t := by
  rw [withFetchWord, h]

/-- No steps. -/
theorem core_run_zero (s : State) : core.run 0 s = .next s := rfl

/-- One step of a run that goes on. -/
theorem core_run_succ {s s' : State} (h : step s = .next s') (k : Nat) :
    core.run (k + 1) s = core.run k s' := by
  have h' : core.step s = Host.Outcome.next s' := h
  rw [Host.Core.run.eq_2 core s k, h']

end Sys2Proof.Machine.State
end

