-- ==== Sys2Proof/Laws/PerInstr.lean ====
section
/-! SUPPORT. The family `RoundTrip`: for each operation with well-formed operands, at every
`count` where it runs, the decoder reads it back from the transaction it is; and a transaction reads back from
its word. -/

namespace Sys2Proof.Laws

open Sys2Proof.Machine

/-- A transaction reads back from its word (R50). -/
theorem ofWord_word (t : Txn) : Txn.ofWord t.word = .ok t := by
  obtain ⟨rw, a, v⟩ := t
  have ha := a.isLt
  have hv := v.isLt
  have hb : rw.bit ≤ 1 := by cases rw <;> decide
  have hlt : rw.bit * 2 ^ 24 + a.toNat * 2 ^ 8 + v.toNat < 2 ^ 25 := by omega
  have hd : (rw.bit * 2 ^ 24 + a.toNat * 2 ^ 8 + v.toNat) / 2 ^ 24 = rw.bit := by omega
  have hA : BitVec.ofNat 16 ((rw.bit * 2 ^ 24 + a.toNat * 2 ^ 8 + v.toNat) / 2 ^ 8) = a := by
    apply BitVec.eq_of_toNat_eq
    rw [BitVec.toNat_ofNat]
    omega
  have hV : BitVec.ofNat 8 (rw.bit * 2 ^ 24 + a.toNat * 2 ^ 8 + v.toNat) = v := by
    apply BitVec.eq_of_toNat_eq
    rw [BitVec.toNat_ofNat]
    omega
  rw [Txn.ofWord, Txn.word, if_pos hlt, hd, hA, hV]
  cases rw <;> rfl

namespace RoundTrip

/-- What the family says of an operation. -/
def Statement (i : Instr) : Prop :=
  i.wellFormed = true → ∀ c : Fin 5, i.runsAt c = true → decode c i.txn = i

theorem readOob (a : Addr) : Statement (.readOob a) := by
  intro h c _
  simp only [Instr.wellFormed, decide_eq_true_eq] at h
  simp [decode, Instr.txn, Txn.rd, decodeRead, (belowWindow_iff a).2 h]

theorem readRam (a : Addr) : Statement (.readRam a) := by
  intro h c _
  simp only [Instr.wellFormed, Bool.and_eq_true, decide_eq_true_eq] at h
  have h1 : ¬ belowWindow a = true := by rw [belowWindow_iff]; omega
  simp [decode, Instr.txn, Txn.rd, decodeRead, h1, (inRamWindow_iff a).2 h]

theorem readRom0 (a : Addr) : Statement (.readRom0 a) := by
  intro h c _
  simp only [Instr.wellFormed, Bool.and_eq_true, decide_eq_true_eq] at h
  have h1 : ¬ belowWindow a = true := by rw [belowWindow_iff]; omega
  have h2 : ¬ inRamWindow a = true := by rw [inRamWindow_iff]; omega
  have h3 : ¬ inWindow1 a = true := by rw [inWindow1_iff]; omega
  simp [decode, Instr.txn, Txn.rd, decodeRead, h1, h2, h3]

theorem readRom1 (a : Addr) : Statement (.readRom1 a) := by
  intro h c _
  have ha := a.isLt
  simp only [Instr.wellFormed, decide_eq_true_eq] at h
  have h1 : ¬ belowWindow a = true := by rw [belowWindow_iff]; omega
  have h2 : ¬ inRamWindow a = true := by rw [inRamWindow_iff]; omega
  have h3 : inWindow1 a = true := by rw [inWindow1_iff]; omega
  simp [decode, Instr.txn, Txn.rd, decodeRead, h1, h2, h3]

theorem writeOob (a : Addr) (v : Byte) : Statement (.writeOob a v) := by
  intro h c _
  simp only [Instr.wellFormed, decide_eq_true_eq] at h
  simp [decode, Instr.txn, Txn.wr, decodeWrite, (belowWindow_iff a).2 h]

theorem writeRam (a : Addr) (v : Byte) : Statement (.writeRam a v) := by
  intro h c _
  simp only [Instr.wellFormed, Bool.and_eq_true, decide_eq_true_eq] at h
  have h1 : ¬ belowWindow a = true := by rw [belowWindow_iff]; omega
  simp [decode, Instr.txn, Txn.wr, decodeWrite, h1, (inRamWindow_iff a).2 h]

/-- In the register port the decoder is the serial decoder. -/
theorem decode_port (c : Fin 5) {a : Addr} (v : Byte) (h : 0x8000 ≤ a.toNat) :
    decode c (.wr a v) = decodeSerial c a v := by
  have h1 : ¬ belowWindow a = true := by rw [belowWindow_iff]; omega
  have h2 : ¬ inRamWindow a = true := by rw [inRamWindow_iff]; omega
  simp [decode, Txn.wr, decodeWrite, h1, h2]

/-- The fifth shift write commits to the register of `addr[14:13]`. -/
theorem decode_commit {c : Fin 5} {a : Addr} {v : Byte} (h : 0x8000 ≤ a.toNat) (hv : v.toNat < 0x80)
    (hc : c.val = 4) :
    decode c (.wr a v) = match a.toNat / 0x2000 % 4 with
      | 0 => .commitCtrl a v
      | 1 => .commitChr0 a v
      | 2 => .commitChr1 a v
      | _ => .commitPrg a v := by
  have h3 : ¬ isResetWrite v = true := by rw [isResetWrite_iff]; omega
  rw [decode_port c v h, decodeSerial, if_neg h3, if_pos ((isFifthWrite_iff c).2 hc), registerSelect_toNat]
    <;> rfl

theorem writeReset (a : Addr) (v : Byte) : Statement (.writeReset a v) := by
  intro h c _
  simp only [Instr.wellFormed, Bool.and_eq_true, decide_eq_true_eq] at h
  rw [Instr.txn, decode_port c v h.1, decodeSerial, if_pos ((isResetWrite_iff v).2 h.2)]

theorem writeShift (a : Addr) (v : Byte) : Statement (.writeShift a v) := by
  intro h c hc
  simp only [Instr.wellFormed, Bool.and_eq_true, decide_eq_true_eq] at h
  simp only [Instr.runsAt, decide_eq_true_eq] at hc
  have h3 : ¬ isResetWrite v = true := by rw [isResetWrite_iff]; omega
  have h4 : ¬ isFifthWrite c = true := by rw [isFifthWrite_iff]; omega
  rw [Instr.txn, decode_port c v h.1, decodeSerial, if_neg h3, if_neg h4]

theorem commitCtrl (a : Addr) (v : Byte) : Statement (.commitCtrl a v) := by
  intro h c hc
  simp only [Instr.wellFormed, Bool.and_eq_true, decide_eq_true_eq] at h
  simp only [Instr.runsAt, decide_eq_true_eq] at hc
  rw [Instr.txn, decode_commit h.1.1 h.2 hc, show a.toNat / 0x2000 % 4 = 0 by omega]
  rfl

theorem commitChr0 (a : Addr) (v : Byte) : Statement (.commitChr0 a v) := by
  intro h c hc
  simp only [Instr.wellFormed, Bool.and_eq_true, decide_eq_true_eq] at h
  simp only [Instr.runsAt, decide_eq_true_eq] at hc
  rw [Instr.txn, decode_commit (by omega) h.2 hc, show a.toNat / 0x2000 % 4 = 1 by omega]
  rfl

theorem commitChr1 (a : Addr) (v : Byte) : Statement (.commitChr1 a v) := by
  intro h c hc
  simp only [Instr.wellFormed, Bool.and_eq_true, decide_eq_true_eq] at h
  simp only [Instr.runsAt, decide_eq_true_eq] at hc
  rw [Instr.txn, decode_commit (by omega) h.2 hc, show a.toNat / 0x2000 % 4 = 2 by omega]
  rfl

theorem commitPrg (a : Addr) (v : Byte) : Statement (.commitPrg a v) := by
  intro h c hc
  have ha := a.isLt
  simp only [Instr.wellFormed, Bool.and_eq_true, decide_eq_true_eq] at h
  simp only [Instr.runsAt, decide_eq_true_eq] at hc
  rw [Instr.txn, decode_commit (by omega) h.2 hc, show a.toNat / 0x2000 % 4 = 3 by omega]
  rfl

end RoundTrip
end Sys2Proof.Laws
end

