-- ==== Sys2Proof/Tests/Slice0.lean ====
section
/-! SUPPORT. Tests. Expected values come from the spec's encodings and from 95_test_vectors.md (the vector's
name stands at each). Then, for each obligation with hypotheses, a witness that meets them. -/

namespace Sys2Proof.Tests

open Sys2Proof.Machine

/-! ### Helpers -/

/-- A few bytes of the test image `ROM[i] = i div 16384` (95_test_vectors.md, Conventions). -/
def testRom : Memory :=
  [(16384, 1), (32767, 1), (32768, 2), (40960, 2), (49151, 2), (49152, 3), (114688, 7), (122880, 7), (131071, 7)]

/-- The state of V-RD with `n` banks, a mode, a bank select and a serial port. -/
def unitAt (n : Nat) (mode : PrgMode) (b : BitVec 4) (count : Fin 5) (accum : Reg5) : State :=
  { State.powerOn ⟨n, testRom, true, .noop, true⟩ [(0, 0x12), (8191, 0x34)] with
    control := ⟨mode, 0, 0⟩, bankSelect := b, count := count, accum := accum,
    prgBase0 := (bases n mode b).1, prgBase1 := (bases n mode b).2 }

/-- The state of V-RD. -/
def unitL : State := unitAt 8 .switchLast 2 0 0

/-- The same cartridge without RAM. -/
def unitNoRam (aw : AbsentWrite) : State := { unitL with cart := ⟨8, testRom, false, aw, false⟩, ram := [] }

/-- The state after one transaction; none if the step does not answer a next state. -/
def after (s : State) (t : Txn) : Option State :=
  match step (s.issueNext t) with
  | .next s' => some s'
  | _ => none

/-- What one transaction answers. -/
def answerOf (s : State) (t : Txn) : Option Answer := (after s t).bind State.answer

/-- What one transaction leaves in the port: `accum`, `count`. -/
def portOf (s : State) (t : Txn) : Option (Reg5 × Fin 5) := (after s t).map fun u => (u.accum, u.count)

/-- The operation a word is, if it is one. -/
def opOf (count : Fin 5) (w : Nat) : Option Instr :=
  match decodeWord count w with
  | .ok i => some i
  | .error _ => none

/-! ### WellFormed: one ill-formed term for each check (R60) -/

theorem test_wf_readOob : (Instr.readOob 0x6000).wellFormed = false := by decide
theorem test_wf_readRam_low : (Instr.readRam 0x5FFF).wellFormed = false := by decide
theorem test_wf_readRam_high : (Instr.readRam 0x8000).wellFormed = false := by decide
theorem test_wf_readRom0_low : (Instr.readRom0 0x7FFF).wellFormed = false := by decide
theorem test_wf_readRom0_high : (Instr.readRom0 0xC000).wellFormed = false := by decide
theorem test_wf_readRom1 : (Instr.readRom1 0xBFFF).wellFormed = false := by decide
theorem test_wf_writeOob : (Instr.writeOob 0x6000 0).wellFormed = false := by decide
theorem test_wf_writeRam_low : (Instr.writeRam 0x5FFF 0).wellFormed = false := by decide
theorem test_wf_writeRam_high : (Instr.writeRam 0x8000 0).wellFormed = false := by decide
theorem test_wf_writeReset_addr : (Instr.writeReset 0x7FFF 0x80).wellFormed = false := by decide
theorem test_wf_writeReset_bit7 : (Instr.writeReset 0x8000 0x7F).wellFormed = false := by decide
theorem test_wf_writeShift_addr : (Instr.writeShift 0x7FFF 1).wellFormed = false := by decide
theorem test_wf_writeShift_bit7 : (Instr.writeShift 0x8000 0x80).wellFormed = false := by decide
theorem test_wf_commitCtrl_low : (Instr.commitCtrl 0x7FFF 1).wellFormed = false := by decide
theorem test_wf_commitCtrl_high : (Instr.commitCtrl 0xA000 1).wellFormed = false := by decide
theorem test_wf_commitCtrl_bit7 : (Instr.commitCtrl 0x8000 0x80).wellFormed = false := by decide
theorem test_wf_commitChr0_low : (Instr.commitChr0 0x9FFF 1).wellFormed = false := by decide
theorem test_wf_commitChr0_high : (Instr.commitChr0 0xC000 1).wellFormed = false := by decide
theorem test_wf_commitChr0_bit7 : (Instr.commitChr0 0xA000 0x80).wellFormed = false := by decide
theorem test_wf_commitChr1_low : (Instr.commitChr1 0xBFFF 1).wellFormed = false := by decide
theorem test_wf_commitChr1_high : (Instr.commitChr1 0xE000 1).wellFormed = false := by decide
theorem test_wf_commitChr1_bit7 : (Instr.commitChr1 0xC000 0x80).wellFormed = false := by decide
theorem test_wf_commitPrg_addr : (Instr.commitPrg 0xDFFF 1).wellFormed = false := by decide
theorem test_wf_commitPrg_bit7 : (Instr.commitPrg 0xE000 0x80).wellFormed = false := by decide
theorem test_runs_shift_at_4 : (Instr.writeShift 0x8000 1).runsAt 4 = false := by decide
theorem test_runs_commit_below_4 :
    [Instr.commitCtrl 0x8000 1, .commitChr0 0xA000 1, .commitChr1 0xC000 1, .commitPrg 0xE000 1].all
      (fun i => !i.runsAt 3) = true := by decide

/-! ### Decoding: words written out from R50, bit 24 `rw`, bits 23:8 `addr`, bits 7:0 `value` (V-DEC) -/

theorem test_dec_readOob : opOf 4 0b0_0101111111111111_00000000 = some (.readOob 0x5FFF) := by decide
theorem test_dec_readRam : opOf 0 0b0_0110000000000000_00000000 = some (.readRam 0x6000) := by decide
theorem test_dec_readRom0 : opOf 0 0b0_1011111111111111_00000000 = some (.readRom0 0xBFFF) := by decide
theorem test_dec_readRom1 : opOf 0 0b0_1100000000000000_00000000 = some (.readRom1 0xC000) := by decide
theorem test_dec_writeOob : opOf 4 0b1_0100000000000000_10000000 = some (.writeOob 0x4000 0x80) := by decide
theorem test_dec_writeRam : opOf 4 0b1_0110000000000000_10000000 = some (.writeRam 0x6000 0x80) := by decide
theorem test_dec_writeReset : opOf 4 0b1_1000000000000000_10000000 = some (.writeReset 0x8000 0x80) := by decide
theorem test_dec_writeShift : opOf 3 0b1_1110000000000000_00000000 = some (.writeShift 0xE000 0) := by decide
theorem test_dec_commitCtrl : opOf 4 0b1_1000000000000000_00000001 = some (.commitCtrl 0x8000 1) := by decide
theorem test_dec_commitChr0 : opOf 4 0b1_1010000000000000_01111110 = some (.commitChr0 0xA000 0x7E) := by decide
theorem test_dec_commitChr1 : opOf 4 0b1_1101111111111111_01111111 = some (.commitChr1 0xDFFF 0x7F) := by decide
theorem test_dec_commitPrg : opOf 4 0b1_1110000000000000_00000000 = some (.commitPrg 0xE000 0) := by decide
theorem test_dec_too_wide : opOf 0 (2 ^ 25) = none := by decide
theorem test_dec_table_word : decodeTableWord 32 0x1800001 = some (.writeShift 0x8000 1) := by decide

/-! ### Encoding: the same words, in hexadecimal as V-DEC has them -/

theorem test_enc_reads :
    [Instr.readOob 0x5FFF, .readRam 0x7FFF, .readRom0 0x8000, .readRom1 0xFFFF].map encode =
      [0x05FFF00, 0x07FFF00, 0x0800000, 0x0FFFF00] := by decide
theorem test_enc_writes :
    [Instr.writeOob 0x4000 0x80, .writeRam 0x6000 0x80, .writeReset 0xFFFF 0xFF, .writeShift 0x8000 1].map encode =
      [0x1400080, 0x1600080, 0x1FFFFFF, 0x1800001] := by decide
theorem test_enc_commits :
    [Instr.commitCtrl 0x8000 1, .commitChr0 0xA000 0x7E, .commitChr1 0xDFFF 0x7F, .commitPrg 0xE000 0].map encode =
      [0x1800001, 0x1A0007E, 0x1DFFF7F, 0x1E00000] := by decide

/-! ### Reads (V-RD) -/

theorem test_read_oob : answerOf unitL (.rd 0x5FFF) = some .outOfBounds := by decide
theorem test_read_ram :
    (answerOf unitL (.rd 0x6000), answerOf unitL (.rd 0x7FFF)) = (some (.okByte 0x12), some (.okByte 0x34)) := by
  decide
theorem test_read_ram_absent : answerOf (unitNoRam .noop) (.rd 0x6000) = some .outOfBounds := by decide
theorem test_read_rom0 :
    [answerOf unitL (.rd 0x8000), answerOf unitL (.rd 0xA000), answerOf unitL (.rd 0xBFFF)] =
      [some (.okByte 2), some (.okByte 2), some (.okByte 2)] := by decide
theorem test_read_rom1 :
    [answerOf unitL (.rd 0xC000), answerOf unitL (.rd 0xE000), answerOf unitL (.rd 0xFFFF)] =
      [some (.okByte 7), some (.okByte 7), some (.okByte 7)] := by decide

/-! ### Writes outside the register port (V-WR, V-ERR; `count = 2`, `accum = 01000`) -/

theorem test_write_oob :
    let s := unitAt 2 .switchLast 0 2 0b01000
    (answerOf s (.wr 0x5FFF 0x80), portOf s (.wr 0x5FFF 0x80)) = (some .outOfBounds, some (0b01000, 2)) := by decide
theorem test_write_ram :
    let s := unitAt 2 .switchLast 0 2 0b01000
    ((after s (.wr 0x7FFF 0xFF)).map fun u => (u.ram, u.answer)) =
      some ([(0, 0x12), (8191, 0xFF)], some .ok) := by decide
theorem test_write_ram_no_reset :
    portOf (unitAt 2 .switchLast 0 2 0b01000) (.wr 0x6000 0x80) = some (0b01000, 2) := by decide
theorem test_write_ram_absent :
    (answerOf (unitNoRam .noop) (.wr 0x6000 0x55), answerOf (unitNoRam .error) (.wr 0x6000 0x55)) =
      (some .ok, some .outOfBounds) := by decide

/-! ### The serial port (V-SH, V-RST, P1 to P3) -/

/-- V-SH, third write of the load of 22. -/
theorem test_shift : portOf (unitAt 8 .switchLast 0 2 0b10000) (.wr 0xA000 1) = some (0b11000, 3) := by decide
/-- V-SH, data-byte classes `$7E` and `$03`. -/
theorem test_shift_ignored_bits :
    (portOf unitL (.wr 0x8000 0x7E), portOf unitL (.wr 0x8000 0x03)) = (some (0, 1), some (0b10000, 1)) := by decide

/-- V-RST, first row. -/
theorem test_reset_write :
    ((after { unitAt 8 .switchFirst 5 3 0b10100 with control := ⟨.switchFirst, 1, 2⟩, chrBank0 := 9, chrBank1 := 30 }
        (.wr 0x8000 0x80)).map fun u =>
      ((u.control, u.bankSelect, u.chrBank0, u.chrBank1), (u.accum, u.count, u.prgBase0, u.prgBase1))) =
      some ((⟨.switchLast, 1, 2⟩, 0, 0, 0), (0, 0, 0, 114688)) := by decide
/-- V-RST, third row: no commit at `count = 4`. -/
theorem test_reset_at_four :
    ((after (unitAt 8 .switchBoth 6 4 0b11110) (.wr 0xE000 0x81)).map fun u =>
        (u.control.prgMode, u.bankSelect, u.accum, u.count, u.prgBase1)) =
      some (.switchLast, 0, 0, 0, 114688) := by decide

/-- P3, line 13: `B = 10011` (uses D1). -/
theorem test_commit_ctrl :
    ((after (unitAt 16 .switchLast 0 4 0b00110) (.wr 0x8000 1)).map fun u =>
        (u.control, u.prgBase0, u.prgBase1, u.count, u.accum)) =
      some (⟨.switchBoth, 1, 3⟩, 0, 16384, 0, 0) := by decide
/-- P1, line 6: `B = 01000` gives `SwitchFirst` (uses D1). -/
theorem test_commit_ctrl_first :
    ((after (unitAt 8 .switchLast 0 4 0b10000) (.wr 0x8000 0)).map fun u => (u.control, u.prgBase0, u.prgBase1)) =
      some (⟨.switchFirst, 0, 0⟩, 0, 0) := by decide
/-- V-SH, fifth write of the load of 22. -/
theorem test_commit_chr0 :
    ((after (unitAt 8 .switchLast 0 4 0b01100) (.wr 0xA000 1)).map fun u =>
        (u.chrBank0, u.chrBank1, u.bankSelect, u.accum, u.count)) = some (22, 0, 0, 0, 0) := by decide
/-- R79, by hand: the load of 22 at `$C000`. -/
theorem test_commit_chr1 :
    ((after (unitAt 8 .switchLast 0 4 0b01100) (.wr 0xDFFF 1)).map fun u =>
        (u.chrBank0, u.chrBank1, u.bankSelect, u.accum, u.count)) = some (0, 22, 0, 0, 0) := by decide
/-- P1, line 11: `B = 00011`, mode F. -/
theorem test_commit_prg :
    ((after (unitAt 8 .switchFirst 0 4 0b00110) (.wr 0xE000 0)).map fun u =>
        (u.bankSelect, u.prgBase0, u.prgBase1, u.accum, u.count)) = some (3, 0, 49152, 0, 0) := by decide
/-- P3, line 18: `B = 10111`, bit 4 discarded, mode B ignores bit 0. -/
theorem test_commit_prg_bit4 :
    ((after (unitAt 16 .switchBoth 0 4 0b01110) (.wr 0xE000 1)).map fun u =>
        (u.bankSelect, u.prgBase0, u.prgBase1)) = some (7, 98304, 114688) := by decide

/-! ### The bank-base function (V-BASE, as banks; S6, S7) -/

/-- `(prgBase0 / 16384, prgBase1 / 16384)`. -/
def banksOf (n : Nat) (mode : PrgMode) (b : BitVec 4) : Nat × Nat :=
  ((bases n mode b).1 / 16384, (bases n mode b).2 / 16384)

theorem test_bases_both_3 : [0, 1, 2, 3, 4, 5, 6, 7].map (banksOf 3 .switchBoth) =
    [(0, 1), (0, 1), (2, 0), (2, 0), (1, 2), (1, 2), (0, 1), (0, 1)] := by decide
theorem test_bases_first_3 : [8, 9, 10, 11, 12, 13, 14, 15].map (banksOf 3 .switchFirst) =
    [(0, 2), (0, 0), (0, 1), (0, 2), (0, 0), (0, 1), (0, 2), (0, 0)] := by decide
theorem test_bases_last_32 : [0, 7, 8, 15].map (banksOf 32 .switchLast) = [(0, 31), (7, 31), (8, 31), (15, 31)] := by
  decide
theorem test_bases_s6_s7 : bases 4 .switchFirst 2 = (0, 32768) ∧ bases 4 .switchLast 1 = (16384, 49152) := by decide

/-! ### Construction (V-ERR) -/

theorem test_construct_empty : construct [] (fun _ => 0) false = .fault .invalidRom := by rfl
theorem test_construct_bad_lengths (n : Nat) (h : n = 16383 ∨ n = 16385) :
    construct (List.replicate n 0) (fun _ => 0) false = .fault .invalidRom := by
  rw [construct, if_pos]
  rw [List.length_replicate, Config.bankSize_eq]
  omega

/-! ### The interface the host uses -/

/-- A word placed for the next step runs first after reset (log 1). -/
theorem test_fetch_word :
    (match step (State.reset.withFetchWord 32 0x1800001) with
      | .next s => some (s.accum, s.count, s.answer)
      | _ => none) = some (0b10000, 1, some .ok) := by rfl

/-! ### Witnesses: for each obligation with hypotheses, states and operands that meet them, clause by clause at
the ends of each range -/

/-- The state of V-RD with these transactions pending. -/
def unitWith (ts : List Txn) : State := { unitL with pending := ts }

/-- The state of V-RD, idle, with `accum` and `count` inside a load (R81: `count = 4`). -/
def unitAt4 : State := unitAt 8 .switchLast 2 4 0b01100

theorem witness_ConstructionGivesPowerOn :
    (List.replicate 16384 (0 : Byte)).length ≠ 0 ∧ (List.replicate 16384 (0 : Byte)).length % 16384 = 0 := by
  rw [List.length_replicate]; decide

theorem witness_DecodeFollowsOperationMap_reads :
    (0x5FFF#16).toNat < 0x6000 ∧ (0x6000 ≤ (0x6000#16).toNat ∧ (0x7FFF#16).toNat < 0x8000) ∧
    (0x8000 ≤ (0x8000#16).toNat ∧ (0xBFFF#16).toNat < 0xC000) ∧ 0xC000 ≤ (0xC000#16).toNat := by decide

theorem witness_DecodeFollowsOperationMap_writes :
    (0x8000 ≤ (0x8000#16).toNat ∧ (0x80#8).toNat ≥ 0x80) ∧
    (0x8000 ≤ (0x8000#16).toNat ∧ (0x7F#8).toNat < 0x80 ∧ (3 : Fin 5).val < 4) ∧
    (0x8000 ≤ (0x9FFF#16).toNat ∧ (0x9FFF#16).toNat < 0xA000 ∧ (4 : Fin 5).val = 4) ∧
    (0xA000 ≤ (0xA000#16).toNat ∧ (0xBFFF#16).toNat < 0xC000 ∧ (4 : Fin 5).val = 4) ∧
    (0xC000 ≤ (0xC000#16).toNat ∧ (0xDFFF#16).toNat < 0xE000 ∧ (4 : Fin 5).val = 4) ∧
    (0xE000 ≤ (0xE000#16).toNat ∧ (0x00#8).toNat < 0x80 ∧ (4 : Fin 5).val = 4) := by decide

theorem witness_DecodeEncodeRoundTrip :
    ((Instr.readOob 0x5FFF).wellFormed ∧ (Instr.readRam 0x7FFF).wellFormed ∧ (Instr.readRom0 0x8000).wellFormed ∧
      (Instr.readRom1 0xC000).wellFormed ∧ (Instr.writeOob 0 0xFF).wellFormed ∧ (Instr.writeRam 0x6000 0).wellFormed) ∧
    ((Instr.writeReset 0xFFFF 0x80).wellFormed ∧ (Instr.writeShift 0x8000 0x7F).wellFormed ∧
      (Instr.writeShift 0x8000 0x7F).runsAt 3) ∧
    ((Instr.commitCtrl 0x9FFF 0).wellFormed ∧ (Instr.commitChr0 0xA000 1).wellFormed ∧
      (Instr.commitChr1 0xC000 2).wellFormed ∧ (Instr.commitPrg 0xE000 0x7F).wellFormed ∧
      (Instr.commitPrg 0xE000 0x7F).runsAt 4) := by decide

theorem witness_EncodeDecodeWord : 2 ^ 25 - 1 < 2 ^ 25 ∧ 2 ^ 25 ≤ 2 ^ 25 := by decide

theorem witness_OpcodeTableAgreesWithDecoder : 0x1FFFFFF < 2 ^ 25 := by decide

theorem witness_StepRunsDecodedTransaction :
    (unitWith [.rd 0x8000]).pending = Txn.rd 0x8000 :: [] ∧ unitL.pending = [] ∧
    decodeWord unitL.count (0x0800000 % 2 ^ 32) = .ok (.readRom0 0x8000) := ⟨rfl, rfl, rfl⟩

theorem witness_ReadBelowWindowFails : (0x5FFF#16).toNat < 0x6000 := by decide

theorem witness_ReadRamAnswersByte :
    0x6000 ≤ (0x7FFF#16).toNat ∧ (0x7FFF#16).toNat < 0x8000 ∧ unitL.cart.ramPresent = true := by decide

theorem witness_ReadRomWindow0AnswersByte :
    unitL.Inv ∧ 0x8000 ≤ (0xBFFF#16).toNat ∧ (0xBFFF#16).toNat < 0xC000 := by decide

theorem witness_ReadRomWindow1AnswersByte : unitL.Inv ∧ 0xC000 ≤ (0xFFFF#16).toNat := by decide

theorem witness_ReadsArePure :
    (Txn.rd 0x8000).rw = .read ∧ (∀ r ∈ [Txn.rd 0x5FFF, Txn.rd 0x6000], r.rw = .read) ∧
    (unitWith [.rd 0x8000, .rd 0x5FFF, .rd 0x6000, .rd 0x8000]).pending =
      Txn.rd 0x8000 :: ([Txn.rd 0x5FFF, Txn.rd 0x6000] ++ Txn.rd 0x8000 :: []) := by decide

theorem witness_WriteBelowWindowFails : (0x5FFF#16).toNat < 0x6000 := by decide

theorem witness_WriteRamStoresOneByte :
    0x6000 ≤ (0x6000#16).toNat ∧ (0x6000#16).toNat < 0x8000 ∧ unitL.cart.ramPresent = true ∧
    unitL.ram.wf = true ∧ ramOffset 0x6000 = ramOffset 0x6000 := by decide

theorem witness_RamAbsentVariant :
    0x6000 ≤ (0x7FFF#16).toNat ∧ (0x7FFF#16).toNat < 0x8000 ∧ (unitNoRam .noop).cart.ramPresent = false ∧
    (unitNoRam .error).cart.ramPresent = false := by decide

/-- Both ends of the window; S3's hypothetical `R = 2048` at the first and the last `k` that has a mirror. -/
theorem witness_SmallerRamMirrors :
    0x6000 + 0 < 0x8000 ∧ 0x6000 + 8191 < 0x8000 ∧ 0x6000 + 0 + 2048 < 0x8000 ∧ 0x6000 + 6143 + 2048 < 0x8000 := by
  decide

theorem witness_SerialWriteDispatch :
    (unitWith [.wr 0x8000 0x80]).pending = Txn.wr 0x8000 0x80 :: [] ∧ 0x8000 ≤ (0x8000#16).toNat := by decide

theorem witness_ShiftWriteEffect : unitL.count.val < 4 ∧ (unitAt 8 .switchLast 2 3 0b11000).count.val < 4 := by decide

theorem witness_CountTransitionTable_reads_and_low_writes :
    (unitWith [.rd 0xFFFF]).pending = Txn.rd 0xFFFF :: [] ∧ (Txn.rd 0xFFFF).rw = .read ∧
    (Txn.wr 0x7FFF 0x80).rw = .write ∧ (Txn.wr 0x7FFF 0x80).addr.toNat < 0x8000 := by decide

theorem witness_CountTransitionTable_port_writes :
    ((Txn.wr 0x8000 0x80).rw = .write ∧ 0x8000 ≤ (Txn.wr 0x8000 0x80).addr.toNat ∧
      (Txn.wr 0x8000 0x80).value.toNat ≥ 0x80) ∧
    ((Txn.wr 0x8000 0x7F).value.toNat < 0x80 ∧ (unitAt 8 .switchLast 2 3 0b11000).count.val < 4) ∧
    ((Txn.wr 0xFFFF 0x7F).value.toNat < 0x80 ∧ unitAt4.count.val = 4) := by decide

theorem witness_AccumulatorHoldsWrittenBits :
    (unitWith [.wr 0x8000 1, .wr 0xA000 0, .wr 0xFFFF 0x7F, .wr 0xE000 0, .rd 0x6000]).Inv ∧
    unitL.count = 0 ∧ [(0x8000#16, 1#8), (0xA000, 0), (0xFFFF, 0x7F), (0xE000, 0)].length ≤ 4 ∧
    (∀ w ∈ [(0x8000#16, 1#8), (0xA000, 0), (0xFFFF, 0x7F), (0xE000, 0)], 0x8000 ≤ w.1.toNat ∧ w.2.toNat < 0x80) ∧
    (unitWith [.wr 0x8000 1, .wr 0xA000 0, .wr 0xFFFF 0x7F, .wr 0xE000 0, .rd 0x6000]).pending =
      [(0x8000#16, 1#8), (0xA000, 0), (0xFFFF, 0x7F), (0xE000, 0)].map (fun w => Txn.wr w.1 w.2) ++
        [Txn.rd 0x6000] := ⟨by decide, rfl, by decide, by simp, by simp [unitWith]⟩

theorem witness_FiveShiftWritesCommitRegister :
    (unitWith [.wr 0x8000 1, .wr 0xA000 1, .wr 0xC000 0, .wr 0x9FFF 0, .wr 0xE000 0]).Inv ∧ unitL.count = 0 ∧
    (∀ w ∈ [(0x8000#16, 1#8), (0xA000, 1), (0xC000, 0), (0x9FFF, 0)], 0x8000 ≤ w.1.toNat ∧ w.2.toNat < 0x80) ∧
    0x8000 ≤ (0xE000#16).toNat ∧ (0#8).toNat < 0x80 ∧
    (unitWith [.wr 0x8000 1, .wr 0xA000 1, .wr 0xC000 0, .wr 0x9FFF 0, .wr 0xE000 0]).pending =
      [(0x8000#16, 1#8), (0xA000, 1), (0xC000, 0), (0x9FFF, 0)].map (fun w => Txn.wr w.1 w.2) ++
        Txn.wr 0xE000 0 :: [] := ⟨by decide, rfl, by simp, by decide, by decide, by simp [unitWith]⟩

theorem witness_ResetThenLoadReachesRegister :
    ({ unitAt4 with pending := resetTxns ++ loadTxns 3 0b00110 ++ [] } : State).pending =
      resetTxns ++ loadTxns 3 0b00110 ++ [] := by decide

theorem witness_IgnoredBitsHaveNoEffect :
    (0x8000 ≤ (0x8000#16).toNat ∧ 0x8000 ≤ (0xFFFF#16).toNat ∧ (0x80#8).toNat ≥ 0x80 ∧ (0xFF#8).toNat ≥ 0x80) ∧
    ((0x01#8).toNat % 2 = (0x7F#8).toNat % 2 ∧ (unitAt4.count.val = 4 →
      (0xE000#16).toNat / 0x2000 = (0xFFFF#16).toNat / 0x2000) ∧ unitL.count.val ≠ 4) ∧
    (0x5FFF#16).toNat < 0x6000 := by decide

theorem witness_BasesFollowModeFormulas :
    1 ≤ 1 ∧ (3#4).toNat < 4 ∧ (3#4).toNat / 2 * 2 + 1 < 4 := by decide

theorem witness_BasesAreBanksOfTheRom : 1 ≤ 1 := by decide

/-- `N = 4` (even); `N = 3` with `bankSelect = 2`, whose pair wraps (V-BASE); 2 and 3 name one pair. -/
theorem witness_SwitchBothShowsPair :
    4 % 2 = 0 ∧ (bases 3 .switchBoth 2).1 = (3 - 1) * 16384 ∧ (2#4).toNat / 2 = (3#4).toNat / 2 := by decide

theorem witness_SingleBankWindowsAgree :
    ({ unitAt 1 .switchFirst 9 0 0 with
        cart := ⟨1, [(5, 1)], true, .noop, false⟩, pending := [.rd 0xBFFF, .rd 0xFFFF] } : State).Inv ∧
    16383 < 16384 ∧
    [Txn.rd 0xBFFF, Txn.rd 0xFFFF] =
      Txn.rd (BitVec.ofNat 16 (0x8000 + 16383)) :: Txn.rd (BitVec.ofNat 16 (0xC000 + 16383)) :: [] := by decide

theorem witness_ReachableBanks :
    (unitWith [.rd 0x8000]).Inv ∧ 0x8000 ≤ (0x8000#16).toNat ∧
    (unitWith [.rd 0x8000]).pending = Txn.rd 0x8000 :: [] := by decide

theorem witness_ReadAfterCommitUsesNewBases :
    ({ unitAt4 with pending := [.wr 0xE000 0, .rd 0xC000] } : State).Inv ∧ unitAt4.count.val = 4 ∧
    (0#8).toNat < 0x80 ∧ 0x8000 ≤ (0xC000#16).toNat ∧ 0xE000 ≤ (0xE000#16).toNat ∧
    (0x8000 ≤ (0x9FFF#16).toNat ∧ (0x9FFF#16).toNat < 0xA000) := by decide

theorem witness_EveryTransactionIsAnswered :
    (unitWith [.rd 0]).pending = Txn.rd 0 :: [] ∧ (unitWith [.wr 0x8000 1]).pending = Txn.wr 0x8000 1 :: [] := by decide

theorem witness_OutOfBoundsExactlyBelowWindow :
    (unitWith [.rd 0x5FFF]).Inv ∧ unitL.cart.ramPresent = true ∧
    (unitWith [.rd 0x5FFF]).pending = Txn.rd 0x5FFF :: [] := by decide

theorem witness_FailedAccessChangesNothing :
    ∃ s', (unitWith [.wr 0x5FFF 0x80]).pending = Txn.wr 0x5FFF 0x80 :: [] ∧
      step (unitWith [.wr 0x5FFF 0x80]) = .next s' ∧ s'.answer = some .outOfBounds := ⟨_, rfl, rfl, rfl⟩

theorem witness_StepKeepsInvariant :
    (unitWith [.wr 0x8000 1]).Inv ∧ ∃ t, step (unitWith [.wr 0x8000 1]) = .next t := ⟨by decide, _, rfl⟩

theorem witness_StepKeepsRomAndParameters :
    ∃ t, step (unitWith [.wr 0xE000 0x80]) = .next t := ⟨_, rfl⟩

theorem witness_WrittenOnlyByNamedOperations_ram :
    ∃ t, exec (.writeRam 0x6000 0x55) unitL = .next t ∧ t.ram ≠ unitL.ram := ⟨_, rfl, by decide⟩

theorem witness_WrittenOnlyByNamedOperations_port :
    ∃ t, exec (.writeShift 0x8000 1) unitL = .next t ∧ (t.accum ≠ unitL.accum ∨ t.count ≠ unitL.count) :=
  ⟨_, rfl, by decide⟩

theorem witness_WrittenOnlyByNamedOperations_control :
    ∃ t, exec (.commitCtrl 0x8000 1) unitAt4 = .next t ∧ t.control.prgMode ≠ unitAt4.control.prgMode ∧
      (t.control.chrMode ≠ unitAt4.control.chrMode ∨ t.control.mirror ≠ unitAt4.control.mirror) :=
  ⟨_, rfl, by decide, by decide⟩

theorem witness_WrittenOnlyByNamedOperations_chr0 :
    ∃ t, exec (.commitChr0 0xA000 1) unitAt4 = .next t ∧ t.chrBank0 ≠ unitAt4.chrBank0 := ⟨_, rfl, by decide⟩

theorem witness_WrittenOnlyByNamedOperations_chr1 :
    ∃ t, exec (.commitChr1 0xC000 1) unitAt4 = .next t ∧ t.chrBank1 ≠ unitAt4.chrBank1 := ⟨_, rfl, by decide⟩

theorem witness_WrittenOnlyByNamedOperations_prg :
    ∃ t, exec (.commitPrg 0xE000 1) unitAt4 = .next t ∧ t.bankSelect ≠ unitAt4.bankSelect ∧
      (t.prgBase0 ≠ unitAt4.prgBase0 ∨ t.prgBase1 ≠ unitAt4.prgBase1) := ⟨_, rfl, by decide, by decide⟩

theorem witness_MemoryFrame :
    ∃ t, exec (.writeRam 0x6000 0x55) unitL = .next t ∧ 1 ≠ ramOffset 0x6000 := ⟨_, rfl, by decide⟩

theorem witness_RamReadReturnsLatestWrite :
    (unitWith [.wr 0x7FFF 9, .wr 0x8000 1, .rd 0x7FFF]).Inv ∧ unitL.cart.ramPresent = true ∧ 8191 < 8192 ∧
    (unitWith [.wr 0x7FFF 9, .wr 0x8000 1, .rd 0x7FFF]).pending =
      [Txn.wr 0x7FFF 9, Txn.wr 0x8000 1] ++ [Txn.rd (BitVec.ofNat 16 (0x6000 + 8191))] := by decide

theorem witness_StepRefinesContracts : (unitWith [.wr 0xE000 1]).pending = Txn.wr 0xE000 1 :: [] := by decide

theorem witness_SinkSeesDecodedAccesses_state :
    unitL.Inv ∧ unitL.cart.ramPresent = true ∧ unitL.cart.sink = true := by decide

theorem witness_SinkSeesDecodedAccesses_clauses :
    ((0x5FFF#16).toNat < 0x6000 ∧ (∃ t, step (unitL.issueNext (.rd 0x5FFF)) = .next t) ∧
      ∃ t, step (unitL.issueNext (.wr 0x5FFF 1)) = .next t) ∧
    (0x6000 ≤ (0x6000#16).toNat ∧ (0x7FFF#16).toNat < 0x8000 ∧ (∃ t, step (unitL.issueNext (.rd 0x7FFF)) = .next t) ∧
      ∃ t, step (unitL.issueNext (.wr 0x6000 1)) = .next t) ∧
    (0x8000 ≤ (0x8000#16).toNat ∧ (0xBFFF#16).toNat < 0xC000 ∧ ∃ t, step (unitL.issueNext (.rd 0xBFFF)) = .next t) ∧
    (0xC000 ≤ (0xC000#16).toNat ∧ ∃ t, step (unitL.issueNext (.rd 0xC000)) = .next t) ∧
    (0x8000 ≤ (0x8000#16).toNat ∧ ∃ t, step (unitL.issueNext (.wr 0x8000 1)) = .next t) :=
  ⟨⟨by decide, ⟨_, rfl⟩, _, rfl⟩, ⟨by decide, by decide, ⟨_, rfl⟩, _, rfl⟩, ⟨by decide, by decide, _, rfl⟩,
    ⟨by decide, _, rfl⟩, by decide, _, rfl⟩

end Sys2Proof.Tests
end

section
/-! The operation map of R60. The family `Laws.RoundTrip` says that the decoder answers each well-formed operation
for the transaction it is, at every `count` where it runs; every row of the map is one member of that family. -/

namespace Sys2Proof.Proofs

open Sys2Proof.Machine Sys2Proof.Laws

/-- A read has no data byte (R50): whatever stands in its place, the decoder answers as for `R addr`. -/
theorem decode_read_eq_decode_rd (c : Fin 5) (a : Addr) (v : Byte) :
    decode c ⟨.read, a, v⟩ = decode c (.rd a) := rfl

/-- Settles O7: the address, data and state columns of a row are the well-formedness of its operation and the
`count` at which it runs, so each row is that operation's round trip. -/
theorem decodeFollowsOperationMap : Obligations.DecodeFollowsOperationMap := by
  unfold Obligations.DecodeFollowsOperationMap
  intro c a v
  rw [decode_read_eq_decode_rd]
  refine ⟨?readOob, ?readRam, ?readRom0, ?readRom1, ?writeOob, ?writeRam, ?writeReset, ?writeShift,
    ?commitCtrl, ?commitChr0, ?commitChr1, ?commitPrg⟩
  case readOob => exact fun hi => RoundTrip.readOob a (by simp [Instr.wellFormed, hi]) c rfl
  case readRam => exact fun lo hi => RoundTrip.readRam a (by simp [Instr.wellFormed, lo, hi]) c rfl
  case readRom0 => exact fun lo hi => RoundTrip.readRom0 a (by simp [Instr.wellFormed, lo, hi]) c rfl
  case readRom1 => exact fun lo => RoundTrip.readRom1 a (by simp [Instr.wellFormed, lo]) c rfl
  case writeOob => exact fun hi => RoundTrip.writeOob a v (by simp [Instr.wellFormed, hi]) c rfl
  case writeRam => exact fun lo hi => RoundTrip.writeRam a v (by simp [Instr.wellFormed, lo, hi]) c rfl
  case writeReset => exact fun lo hv => RoundTrip.writeReset a v (by simp [Instr.wellFormed, lo, ge_iff_le.1 hv]) c rfl
  case writeShift =>
    exact fun lo hv hc =>
      RoundTrip.writeShift a v (by simp [Instr.wellFormed, lo, hv]) c (by simp [Instr.runsAt, hc])
  case commitCtrl =>
    exact fun lo hi hv hc =>
      RoundTrip.commitCtrl a v (by simp [Instr.wellFormed, lo, hi, hv]) c (by simp [Instr.runsAt, hc])
  case commitChr0 =>
    exact fun lo hi hv hc =>
      RoundTrip.commitChr0 a v (by simp [Instr.wellFormed, lo, hi, hv]) c (by simp [Instr.runsAt, hc])
  case commitChr1 =>
    exact fun lo hi hv hc =>
      RoundTrip.commitChr1 a v (by simp [Instr.wellFormed, lo, hi, hv]) c (by simp [Instr.runsAt, hc])
  case commitPrg =>
    exact fun lo hv hc =>
      RoundTrip.commitPrg a v (by simp [Instr.wellFormed, lo, hv]) c (by simp [Instr.runsAt, hc])

end Sys2Proof.Proofs
end

section
/-! The read path (40_read_path.md R65 to R69). The four read operations are REMY's one `read` contract through
`translate` (R36). That contract only answers the bus, and its answer depends on the unit alone; so a run of reads
changes neither the unit nor what any later read answers. -/

namespace Sys2Proof.Proofs

open Sys2Proof.Machine Sys2Proof.Machine.State

/-! ### `translate`, an equation per window (R31, R36) -/

theorem translate_below (s : State) {a : Nat} (hi : a < 0x6000) : s.translate a = .outOfBounds := by
  rw [State.translate, if_pos hi]

theorem translate_ram (s : State) {a : Nat} (lo : 0x6000 ≤ a) (hi : a < 0x8000) :
    s.translate a = .ram ((a - 0x6000) % 8192) := by
  rw [State.translate, if_neg (by omega), if_pos hi]

theorem translate_window0 (s : State) {a : Nat} (lo : 0x8000 ≤ a) (hi : a < 0xC000) :
    s.translate a = .rom (s.prgBase0 + (a - 0x8000) % 16384) := by
  rw [State.translate, if_neg (by omega), if_neg (by omega), if_pos hi]

theorem translate_window1 (s : State) {a : Nat} (lo : 0xC000 ≤ a) :
    s.translate a = .rom (s.prgBase1 + (a - 0xC000) % 16384) := by
  rw [State.translate, if_neg (by omega), if_neg (by omega), if_neg (by omega)]

/-! ### What each read operation does: the `read` contract -/

theorem exec_readOob {a : Addr} (s : State) (hi : a.toNat < 0x6000) :
    exec (.readOob a) s = .next (s.contractRead a) := by
  rw [contractRead, translate_below s hi]
  rfl

theorem exec_readRam {a : Addr} (s : State) (lo : 0x6000 ≤ a.toNat) (hi : a.toNat < 0x8000) :
    exec (.readRam a) s = .next (s.contractRead a) := by
  rw [contractRead, translate_ram s lo hi]
  rfl

theorem exec_readRom0 {a : Addr} (s : State) (lo : 0x8000 ≤ a.toNat) (hi : a.toNat < 0xC000) :
    exec (.readRom0 a) s = .next (s.contractRead a) := by
  rw [contractRead, translate_window0 s lo hi]
  rfl

theorem exec_readRom1 {a : Addr} (s : State) (lo : 0xC000 ≤ a.toNat) :
    exec (.readRom1 a) s = .next (s.contractRead a) := by
  rw [contractRead, translate_window1 s lo]
  rfl

/-- Whichever of the four operations a read decodes to, it is the `read` contract. -/
theorem exec_decode_read (c : Fin 5) (a : Addr) (v : Byte) (s : State) :
    exec (decode c ⟨.read, a, v⟩) s = .next (s.contractRead a) := by
  obtain ⟨below, ram, window0, window1, -⟩ := decodeFollowsOperationMap c a v
  by_cases h6 : a.toNat < 0x6000
  · rw [below h6, exec_readOob s h6]
  by_cases h8 : a.toNat < 0x8000
  · rw [ram (by omega) h8, exec_readRam s (by omega) h8]
  by_cases hC : a.toNat < 0xC000
  · rw [window0 (by omega) hC, exec_readRom0 s (by omega) hC]
  · rw [window1 (by omega), exec_readRom1 s (by omega)]

/-! ### What a read leaves unchanged -/

theorem sameUnit_respond (s : State) (r : Answer) (o : Option Observation) : s.SameUnit (s.respond r o) := by
  simp [SameUnit]

theorem answerRead_eq_respond (s : State) (got : Option Byte) (o : Observation) :
    ∃ r o', s.answerRead got o = s.respond r o' := by
  obtain ⟨v, -, h⟩ | ⟨-, h⟩ := answerRead_cases s got o
  · exact ⟨_, _, h⟩
  · exact ⟨_, _, h⟩

/-- Everything a read does to the state is to answer the bus. -/
theorem contractRead_eq_respond (s : State) (a : Addr) : ∃ r o, s.contractRead a = s.respond r o := by
  rw [contractRead]
  split
  · exact ⟨_, _, rfl⟩
  · exact answerRead_eq_respond ..
  · exact answerRead_eq_respond ..

theorem sameUnit_contractRead (s : State) (a : Addr) : s.SameUnit (s.contractRead a) := by
  obtain ⟨r, o, h⟩ := contractRead_eq_respond s a
  exact h ▸ sameUnit_respond s r o

theorem contractRead_pending (s : State) (a : Addr) : (s.contractRead a).pending = s.pending := by
  obtain ⟨r, o, h⟩ := contractRead_eq_respond s a
  rw [h, respond_pending]

/-! ### What a read answers depends on the unit alone -/

theorem translate_congr {s s' : State} (h : s.SameUnit s') (a : Nat) : s'.translate a = s.translate a := by
  obtain ⟨-, -, -, -, -, -, -, -, hbase0, hbase1⟩ := h
  rw [State.translate, State.translate, hbase0, hbase1]

theorem ramGet_congr {s s' : State} (h : s.SameUnit s') (off : Nat) : s'.ramGet off = s.ramGet off := by
  obtain ⟨hcart, hram, -⟩ := h
  rw [ramGet, ramGet, hcart, hram]

theorem romGet_congr {s s' : State} (h : s.SameUnit s') (off : Nat) : s'.romGet off = s.romGet off := by
  obtain ⟨hcart, -⟩ := h
  rw [romGet, romGet, romSize, romSize, hcart]

/-- The answer is made of the byte the region gave, and of nothing else in the state. -/
theorem answerRead_answer_eq (s s' : State) (got : Option Byte) (o o' : Observation) :
    (s'.answerRead got o').answer = (s.answerRead got o).answer := by
  cases got <;> rfl

theorem contractRead_answer_congr {s s' : State} (h : s.SameUnit s') (a : Addr) :
    (s'.contractRead a).answer = (s.contractRead a).answer := by
  rw [contractRead, contractRead, translate_congr h]
  cases s.translate a.toNat with
  | outOfBounds => rfl
  | ram off =>
    simp only [ramGet_congr h]
    exact answerRead_answer_eq s s' _ _ _
  | rom off =>
    simp only [romGet_congr h]
    exact answerRead_answer_eq s s' _ _ _

/-! ### Steps and runs of reads -/

/-- What a step does when its transaction is a read (R65 to R69). -/
theorem step_read {s : State} {t : Txn} {rest : List Txn} (hp : s.pending = t :: rest) (ht : t.rw = .read) :
    ∃ s', step s = .next s' ∧ s.SameUnit s' ∧ s'.pending = rest ∧
      s'.answer = (s.contractRead t.addr).answer := by
  obtain ⟨rw, a, v⟩ := t
  subst ht
  refine ⟨State.contractRead a { s with pending := rest }, ?_, sameUnit_contractRead _ a,
    contractRead_pending _ a, contractRead_answer_congr (by simp [SameUnit]) a⟩
  rw [step_txn hp, exec_decode_read]

/-- After any reads, a read answers what it would answer at once (R69): by induction on the reads before it, each of
which leaves the unit, and so the last read's answer, as it was. -/
theorem run_reads_then_read {t : Txn} (ht : t.rw = .read) {rest : List Txn} :
    ∀ (reads : List Txn) (s : State), (∀ r ∈ reads, r.rw = .read) → s.pending = reads ++ t :: rest →
      ∃ s', core.run (reads.length + 1) s = .next s' ∧ s'.answer = (s.contractRead t.addr).answer := by
  intro reads
  induction reads with
  | nil =>
    intro s _ hp
    obtain ⟨s', hstep, -, -, hanswer⟩ := step_read hp ht
    exact ⟨s', core_run_succ hstep 0, hanswer⟩
  | cons r reads ih =>
    intro s hreads hp
    obtain ⟨hr, hreads⟩ := List.forall_mem_cons.1 hreads
    obtain ⟨s₁, hstep, hsame, hpending, -⟩ := step_read hp hr
    obtain ⟨s', hrun, hanswer⟩ := ih s₁ hreads hpending
    exact ⟨s', (core_run_succ hstep _).trans hrun, hanswer.trans (contractRead_answer_congr hsame t.addr)⟩

/-! ### The obligations -/

/-- Settles O16: a read is the `read` contract, which only answers the bus; the reads up to the second read of an
address leave the unit that both answers come from. -/
theorem readsArePure : Obligations.ReadsArePure := by
  unfold Obligations.ReadsArePure
  constructor
  · intro s t rest hp ht
    obtain ⟨s', hstep, hsame, -, -⟩ := step_read hp ht
    exact ⟨s', hstep, hsame⟩
  · intro s t between rest ht hbetween hp
    obtain ⟨s₁, hstep, hsame, hpending, hfirst⟩ := step_read hp ht
    obtain ⟨s₂, hrun, hsecond⟩ := run_reads_then_read ht between s₁ hbetween hpending
    refine ⟨s₁, s₂, hstep, hrun, ?_⟩
    calc s₂.answer = (s₁.contractRead t.addr).answer := hsecond
      _ = (s.contractRead t.addr).answer := contractRead_answer_congr hsame t.addr
      _ = s₁.answer := hfirst.symm

/-- Settles O12: the row of R60 below the window, and an error that does nothing but answer the bus. -/
theorem readBelowWindowFails : Obligations.ReadBelowWindowFails := by
  unfold Obligations.ReadBelowWindowFails
  constructor
  · intro s a h
    refine ⟨fun c v => ?_, s.raiseOutOfBounds, rfl, ?_, sameUnit_respond s _ _, ?_⟩
    · obtain ⟨below, -⟩ := decodeFollowsOperationMap c a v
      exact below h
    · exact raiseOutOfBounds_answer s
    · exact raiseOutOfBounds_pending s
  · intro c v
    obtain ⟨-, ram, -⟩ := decodeFollowsOperationMap c 0x6000 v
    exact ram (by decide) (by decide)

end Sys2Proof.Proofs
end

section
/-! The write path outside the register port (41_write_path.md R70 to R72). A write below the window only answers the
bus. A write to the RAM window is `storeRam`; its frame and what the RAM gives after it are said once, of the RAM seen
through `ramGet`. -/

namespace Sys2Proof.Proofs

open Sys2Proof.Machine Sys2Proof.Machine.State

/-! ### What each write operation does -/

theorem exec_writeOob (s : State) (a : Addr) (v : Byte) : exec (.writeOob a v) s = .next s.raiseOutOfBounds := rfl

theorem exec_writeRam (s : State) (a : Addr) (v : Byte) : exec (.writeRam a v) s = .next (s.storeRam a v) := rfl

/-- An error writes no item of R10 (R95). -/
theorem sameUnit_raiseOutOfBounds (s : State) : s.SameUnit s.raiseOutOfBounds := sameUnit_respond s _ _

/-! ### The RAM after a store -/

theorem get_write_other {size : Nat} {m : Memory} {off k : Nat} (v : Byte) (hk : k ≠ off) :
    Memory.get size (m.write off v) k = Memory.get size m k := by
  rw [Memory.get, Memory.get, Memory.read_write_other v hk]

/-- With RAM on the cartridge, the stored byte is what the RAM gives at the offset; the canonical form (log 7) makes a
stored 0 read as 0. -/
theorem ramGet_storeRam_same {s : State} (hp : s.cart.ramPresent = true) (hwf : s.ram.wf = true) (a : Addr)
    (v : Byte) : (s.storeRam a v).ramGet (ramOffset a) = some v := by
  rw [storeRam_present hp, ramGet_eq (by rw [respond_cart, hp]) (ramOffset_lt a), respond_ram,
    Memory.read_write_same hwf]

/-- A store leaves every other byte alone, whether or not the cartridge has RAM (R71, R72). -/
theorem ramGet_storeRam_other (s : State) (a : Addr) (v : Byte) {off : Nat} (h : off ≠ ramOffset a) :
    (s.storeRam a v).ramGet off = s.ramGet off := by
  obtain ⟨-, hs⟩ | ⟨-, -, hs⟩ | ⟨-, -, hs⟩ := storeRam_cases s a v
  · rw [hs, ramGet, ramGet, respond_cart, respond_ram, get_write_other v h]
  · rw [hs, ramGet_congr (sameUnit_respond s _ _)]
  · rw [hs, ramGet_congr (sameUnit_raiseOutOfBounds s)]

/-- Outside the RAM a store only answers the bus: not the port, not a register (R71). -/
theorem storeRam_frame (s : State) (a : Addr) (v : Byte) :
    s.storeRam a v = { s with
      ram := (s.storeRam a v).ram, answer := (s.storeRam a v).answer,
      observation := (s.storeRam a v).observation } := by
  obtain ⟨-, hs⟩ | ⟨-, -, hs⟩ | ⟨-, -, hs⟩ := storeRam_cases s a v <;> rw [hs] <;> rfl

/-- READ_RAM answers the byte the RAM gives at its offset (R66). -/
theorem readRam_answers_of_ramGet {s : State} {a : Addr} {v : Byte} (h : s.ramGet (ramOffset a) = some v) :
    ∃ u, exec (.readRam a) s = .next u ∧ u.answer = some (.okByte v) := by
  refine ⟨s.answerRead (s.ramGet (ramOffset a)) (ramObservation a), rfl, ?_⟩
  rw [h, answerRead, respond_answer]

/-! ### The obligations -/

/-- Settles O18: the next state is `storeRam`, whose byte, other bytes and frame are the lemmas above; a later read
reaches the byte through its offset alone. -/
theorem writeRamStoresOneByte : Obligations.WriteRamStoresOneByte := by
  unfold Obligations.WriteRamStoresOneByte
  intro s a v _ hi hp hwf
  have hbyte : (s.storeRam a v).ramGet (ramOffset a) = some v := ramGet_storeRam_same hp hwf a v
  refine ⟨ramOffset_eq hi, s.storeRam a v, exec_writeRam s a v, ?answer, hbyte, ?other, ?readBack,
    storeRam_frame s a v⟩
  case answer => rw [storeRam_present hp, respond_answer]
  case other => exact fun off h => ramGet_storeRam_other s a v h
  case readBack =>
    intro a' _ _ hoff
    rw [← hoff] at hbyte
    exact readRam_answers_of_ramGet hbyte

/-- Settles O17: the row of R60 below the window, for every value and `count`, and an error that does nothing but
answer the bus; `$6000` is the first address of the next row. -/
theorem writeBelowWindowFails : Obligations.WriteBelowWindowFails := by
  unfold Obligations.WriteBelowWindowFails
  constructor
  · intro s a v h
    refine ⟨fun c => ?_, s.raiseOutOfBounds, exec_writeOob s a v, raiseOutOfBounds_answer s,
      sameUnit_raiseOutOfBounds s, raiseOutOfBounds_pending s⟩
    obtain ⟨-, -, -, -, below, -⟩ := decodeFollowsOperationMap c a v
    exact below h
  · intro c v
    obtain ⟨-, -, -, -, -, ram, -⟩ := decodeFollowsOperationMap c 0x6000 v
    exact ram (by decide) (by decide)

end Sys2Proof.Proofs
end

section
/-! The serial register port (42_serial_port.md R73). A write to `$8000–$FFFF` is one of the six operations of the
port: which one is the order of R73's three tests, and each of the six answers `Ok` and stores no byte. -/

namespace Sys2Proof.Proofs

open Sys2Proof.Machine Sys2Proof.Machine.State

/-! ### What each operation of the port does -/

theorem exec_writeReset (s : State) (a : Addr) (v : Byte) :
    exec (.writeReset a v) s = .next (s.clearPort.resetRegisters.respond .ok none) := rfl

theorem exec_writeShift (s : State) (a : Addr) (v : Byte) :
    exec (.writeShift a v) s = .next ((s.shiftPort v).respond .ok none) := rfl

theorem exec_commitCtrl (s : State) (a : Addr) (v : Byte) :
    exec (.commitCtrl a v) s = .next (s.commit loadControl v) := rfl

theorem exec_commitChr0 (s : State) (a : Addr) (v : Byte) :
    exec (.commitChr0 a v) s = .next (s.commit loadChr0 v) := rfl

theorem exec_commitChr1 (s : State) (a : Addr) (v : Byte) :
    exec (.commitChr1 a v) s = .next (s.commit loadChr1 v) := rfl

theorem exec_commitPrg (s : State) (a : Addr) (v : Byte) :
    exec (.commitPrg a v) s = .next (s.commit loadPrg v) := rfl

/-! ### The dispatch -/

/-- The tests of a write to the port in R73's order: bit 7, `count`, `addr[14:13]`. In the port, the four values of
`addr[14:13]` are the four address ranges of the commit rows of R60. -/
theorem decode_portWrite (c : Fin 5) {a : Addr} (v : Byte) (lo : 0x8000 ≤ a.toNat) :
    decode c (.wr a v) =
      if v.toNat ≥ 0x80 then .writeReset a v
      else if c.val < 4 then .writeShift a v
      else if a.toNat / 0x2000 % 4 = 0 then .commitCtrl a v
      else if a.toNat / 0x2000 % 4 = 1 then .commitChr0 a v
      else if a.toNat / 0x2000 % 4 = 2 then .commitChr1 a v
      else .commitPrg a v := by
  obtain ⟨-, -, -, -, -, -, reset, shift, ctrl, chr0, chr1, prg⟩ := decodeFollowsOperationMap c a v
  have hi := a.isLt
  split_ifs with hv hc h0 h1 h2
  · exact reset lo hv
  · exact shift lo (by omega) hc
  · exact ctrl lo (by omega) (by omega) (by omega)
  · exact chr0 (by omega) (by omega) (by omega) (by omega)
  · exact chr1 (by omega) (by omega) (by omega) (by omega)
  · exact prg (by omega) (by omega) (by omega)

/-! ### What every operation of the port has in common -/

/-- The bus is answered `Ok`; no byte of `ram` or `rom` is stored and no transaction is taken or queued. -/
def OkKeepingMemories (s t : State) : Prop :=
  t.answer = some .ok ∧ t.ram = s.ram ∧ t.cart = s.cart ∧ t.pending = s.pending

theorem okKeepingMemories_reset (s : State) :
    OkKeepingMemories s (s.clearPort.resetRegisters.respond .ok none) := by
  simp [OkKeepingMemories]

theorem okKeepingMemories_shift (s : State) (v : Byte) :
    OkKeepingMemories s ((s.shiftPort v).respond .ok none) := by
  simp [OkKeepingMemories]

/-- A commit stores no byte when the register's own part stores none: the rest of it clears the port and answers. -/
theorem okKeepingMemories_commit {s : State} {load : Reg5 → State → State} (v : Byte)
    (hram : ∀ b, (load b s).ram = s.ram) (hcart : ∀ b, (load b s).cart = s.cart)
    (hpending : ∀ b, (load b s).pending = s.pending) : OkKeepingMemories s (s.commit load v) := by
  simp [OkKeepingMemories, commit_eq, hram, hcart, hpending]

/-- Whichever of the six operations a write to the port decodes to, it answers `Ok` and stores no byte. -/
theorem exec_decode_portWrite (c : Fin 5) {a : Addr} (v : Byte) (lo : 0x8000 ≤ a.toNat) (s : State) :
    ∃ t, exec (decode c (.wr a v)) s = .next t ∧ OkKeepingMemories s t := by
  rw [decode_portWrite c v lo]
  split_ifs
  · exact ⟨_, exec_writeReset s a v, okKeepingMemories_reset s⟩
  · exact ⟨_, exec_writeShift s a v, okKeepingMemories_shift s v⟩
  · exact ⟨_, exec_commitCtrl s a v,
      okKeepingMemories_commit v (loadControl_ram s) (loadControl_cart s) (loadControl_pending s)⟩
  · exact ⟨_, exec_commitChr0 s a v,
      okKeepingMemories_commit v (loadChr0_ram s) (loadChr0_cart s) (loadChr0_pending s)⟩
  · exact ⟨_, exec_commitChr1 s a v,
      okKeepingMemories_commit v (loadChr1_ram s) (loadChr1_cart s) (loadChr1_pending s)⟩
  · exact ⟨_, exec_commitPrg s a v,
      okKeepingMemories_commit v (loadPrg_ram s) (loadPrg_cart s) (loadPrg_pending s)⟩

/-! ### The obligation -/

/-- Settles O21: the order of the tests is that of the rows of R60 for the port, and the step executes the decoded
operation, which answers `Ok` and stores no byte, on the state with the transaction taken off. -/
theorem serialWriteDispatch : Obligations.SerialWriteDispatch := by
  unfold Obligations.SerialWriteDispatch
  intro s a v rest hp lo
  refine ⟨decode_portWrite s.count v lo, ?_⟩
  obtain ⟨t, hexec, hanswer, hram, hcart, hpending⟩ :=
    exec_decode_portWrite s.count v lo { s with pending := rest }
  exact ⟨t, (step_txn hp).trans hexec, hanswer, hram, hcart, hpending⟩

end Sys2Proof.Proofs
end

section
/-! What a transaction can answer and when it fails (60_exceptions.md R90 to R93). A read answers what the `read`
contract answers; a write answers by the three regions of the write path; construction has its one error. In the
default configuration the regions behind the window give every byte asked of them: the RAM because it is there, the
ROM because both bases are whole banks of it. -/

namespace Sys2Proof.Proofs

open Sys2Proof.Machine Sys2Proof.Machine.State

/-! ### Construction -/

/-- Everything construction can do (R93, R108). -/
theorem construct_cases (bytes : List Byte) (init : Nat → Byte) (sink : Bool) :
    ((bytes.length = 0 ∨ bytes.length % 16384 ≠ 0) ∧ construct bytes init sink = .fault .invalidRom) ∨
    (¬ (bytes.length = 0 ∨ bytes.length % 16384 ≠ 0) ∧ ∃ s, construct bytes init sink = .next s) := by
  rw [construct, Config.bankSize_eq]
  split_ifs with h
  · exact .inl ⟨h, rfl⟩
  · exact .inr ⟨h, _, rfl⟩

/-! ### What a read answers -/

/-- A read that reached its region fails exactly where the region has no byte to give. -/
theorem answerRead_answer_eq_outOfBounds_iff (s : State) (got : Option Byte) (o : Observation) :
    (s.answerRead got o).answer = some .outOfBounds ↔ got = none := by
  obtain ⟨v, hgot, h⟩ | ⟨hgot, h⟩ := answerRead_cases s got o
  · rw [h]; simp [hgot]
  · rw [h]; simp [hgot]

theorem answerRead_answer_cases (s : State) (got : Option Byte) (o : Observation) :
    (s.answerRead got o).answer = some .outOfBounds ∨ ∃ v, (s.answerRead got o).answer = some (.okByte v) := by
  obtain ⟨v, -, h⟩ | ⟨-, h⟩ := answerRead_cases s got o
  · exact .inr ⟨v, by rw [h, respond_answer]⟩
  · exact .inl (by rw [h, raiseOutOfBounds_answer])

theorem contractRead_answer_cases (s : State) (a : Addr) :
    (s.contractRead a).answer = some .outOfBounds ∨ ∃ v, (s.contractRead a).answer = some (.okByte v) := by
  rw [contractRead]
  split
  · exact .inl (raiseOutOfBounds_answer s)
  · exact answerRead_answer_cases ..
  · exact answerRead_answer_cases ..

/-! ### The ROM reaches behind both windows -/

/-- Every offset of a window is inside the ROM, whatever the mode and the bank select (R83, R92). -/
theorem bases_add_lt {n : Nat} (hn : 1 ≤ n) (mode : PrgMode) (b : BitVec 4) {w : Nat} (hw : w < 16384) :
    (bases n mode b).1 + w < n * 16384 ∧ (bases n mode b).2 + w < n * 16384 := by
  cases mode with
  | switchBoth =>
    rw [bases_switchBoth]
    exact ⟨bankBase_add_lt _ hn hw, bankBase_add_lt _ hn hw⟩
  | switchFirst =>
    rw [bases_switchFirst]
    exact ⟨by omega, bankBase_add_lt _ hn hw⟩
  | switchLast =>
    rw [bases_switchLast]
    exact ⟨bankBase_add_lt _ hn hw, by omega⟩

/-- Under the invariant both windows have a ROM byte at each of their offsets (R92). -/
theorem romGet_window_ne_none {s : State} (hs : s.Inv) {w : Nat} (hw : w < 16384) :
    s.romGet (s.prgBase0 + w) ≠ none ∧ s.romGet (s.prgBase1 + w) ≠ none := by
  obtain ⟨hbanks, hbases, -⟩ := hs
  have h := bases_add_lt hbanks s.control.prgMode s.bankSelect hw
  rw [← hbases] at h
  obtain ⟨h0, h1⟩ : s.prgBase0 + w < s.cart.romBanks * 16384 ∧ s.prgBase1 + w < s.cart.romBanks * 16384 := h
  simp [romGet_eq h0, romGet_eq h1]

/-- With RAM on the cartridge a read fails exactly below the window (R91). -/
theorem contractRead_answer_eq_outOfBounds_iff {s : State} (hs : s.Inv) (hram : s.cart.ramPresent = true)
    (a : Addr) : (s.contractRead a).answer = some .outOfBounds ↔ a.toNat < 0x6000 := by
  rw [contractRead]
  by_cases h6 : a.toNat < 0x6000
  · simp [translate_below s h6, h6]
  by_cases h8 : a.toNat < 0x8000
  · simp [translate_ram s (by omega) h8, answerRead_answer_eq_outOfBounds_iff, h6,
      ramGet_eq hram (Nat.mod_lt _ (by decide))]
  by_cases hC : a.toNat < 0xC000
  · simp [translate_window0 s (by omega) hC, answerRead_answer_eq_outOfBounds_iff, h6,
      (romGet_window_ne_none hs (Nat.mod_lt _ (by decide))).1]
  · simp [translate_window1 s (by omega : 0xC000 ≤ a.toNat), answerRead_answer_eq_outOfBounds_iff, h6,
      (romGet_window_ne_none hs (Nat.mod_lt _ (by decide))).2]

/-! ### What a write answers -/

theorem storeRam_pending (s : State) (a : Addr) (v : Byte) : (s.storeRam a v).pending = s.pending := by
  rw [storeRam_frame]

/-- A store to the RAM window answers `Ok`; it can fail only on a cartridge without RAM (R71, R72). -/
theorem storeRam_answer_cases (s : State) (a : Addr) (v : Byte) :
    (s.storeRam a v).answer = some .ok ∨
    ((s.storeRam a v).answer = some .outOfBounds ∧ s.cart.ramPresent = false) := by
  obtain ⟨-, hs⟩ | ⟨-, -, hs⟩ | ⟨hp, -, hs⟩ := storeRam_cases s a v
  · exact .inl (by rw [hs, respond_answer])
  · exact .inl (by rw [hs, respond_answer])
  · exact .inr ⟨by rw [hs, raiseOutOfBounds_answer], hp⟩

/-- Whichever operation a write decodes to, it takes no transaction and answers `Ok`, at an address of the window or
the port, or fails: below the window, or for want of RAM. -/
theorem exec_decode_write (c : Fin 5) (a : Addr) (v : Byte) (s : State) :
    ∃ s', exec (decode c ⟨.write, a, v⟩) s = .next s' ∧ s'.pending = s.pending ∧
      ((s'.answer = some .ok ∧ 0x6000 ≤ a.toNat) ∨
        (s'.answer = some .outOfBounds ∧ (a.toNat < 0x6000 ∨ s.cart.ramPresent = false))) := by
  obtain ⟨-, -, -, -, below, ram, -⟩ := decodeFollowsOperationMap c a v
  by_cases h6 : a.toNat < 0x6000
  · rw [below h6, exec_writeOob]
    exact ⟨_, rfl, raiseOutOfBounds_pending s, .inr ⟨raiseOutOfBounds_answer s, .inl h6⟩⟩
  by_cases h8 : a.toNat < 0x8000
  · rw [ram (by omega) h8, exec_writeRam]
    refine ⟨_, rfl, storeRam_pending s a v, ?_⟩
    exact (storeRam_answer_cases s a v).imp (fun hok => ⟨hok, by omega⟩) fun ⟨hoob, hp⟩ => ⟨hoob, .inr hp⟩
  · obtain ⟨t, hexec, hanswer, -, -, hpending⟩ := exec_decode_portWrite c v (by omega : 0x8000 ≤ a.toNat) s
    exact ⟨t, hexec, hpending, .inl ⟨hanswer, by omega⟩⟩

/-- What a step does when its transaction is a write (R70 to R82). -/
theorem step_write {s : State} {t : Txn} {rest : List Txn} (hp : s.pending = t :: rest) (ht : t.rw = .write) :
    ∃ s', step s = .next s' ∧ s'.pending = rest ∧
      ((s'.answer = some .ok ∧ 0x6000 ≤ t.addr.toNat) ∨
        (s'.answer = some .outOfBounds ∧ (t.addr.toNat < 0x6000 ∨ s.cart.ramPresent = false))) := by
  obtain ⟨rw, a, v⟩ := t
  subst ht
  rw [step_txn hp]
  exact exec_decode_write s.count a v { s with pending := rest }

/-! ### No step stops -/

/-- A step gives a next state, idle (log 2), on a read or on a write: it neither faults nor is refused (R8, R90). -/
theorem step_eq_next (s : State) : ∃ s', step s = .next s' := by
  cases hp : s.pending with
  | nil => exact ⟨s, step_idle hp⟩
  | cons t rest =>
    cases ht : t.rw with
    | read =>
      obtain ⟨s', hstep, -⟩ := step_read hp ht
      exact ⟨s', hstep⟩
    | write =>
      obtain ⟨s', hstep, -⟩ := step_write hp ht
      exact ⟨s', hstep⟩

/-! ### The obligations -/

/-- Settles O42: the answers of the two directions, the steps that all go on, and the two results of construction. -/
theorem everyTransactionIsAnswered : Obligations.EveryTransactionIsAnswered := by
  unfold Obligations.EveryTransactionIsAnswered
  refine ⟨?answers, step_eq_next, ?construction⟩
  case answers =>
    intro s t rest hp
    cases ht : t.rw with
    | read =>
      obtain ⟨s', hstep, -, hpending, hanswer⟩ := step_read hp ht
      refine ⟨s', hstep, hpending, ?_⟩
      simpa only [hanswer] using contractRead_answer_cases s t.addr
    | write =>
      obtain ⟨s', hstep, hpending, ⟨hok, -⟩ | ⟨hoob, -⟩⟩ := step_write hp ht
      · exact ⟨s', hstep, hpending, .inr hok⟩
      · exact ⟨s', hstep, hpending, .inl hoob⟩
  case construction =>
    intro bytes init sink
    exact (construct_cases bytes init sink).imp And.right And.right

/-- Settles O43: a read by the regions of `translate`, each of which gives every byte behind the window; a write by its
own cases, of which the one without RAM cannot happen. -/
theorem outOfBoundsExactlyBelowWindow : Obligations.OutOfBoundsExactlyBelowWindow := by
  unfold Obligations.OutOfBoundsExactlyBelowWindow
  intro s t rest hs hram hp
  cases ht : t.rw with
  | read =>
    obtain ⟨s', hstep, -, -, hanswer⟩ := step_read hp ht
    exact ⟨s', hstep, by rw [hanswer, contractRead_answer_eq_outOfBounds_iff hs hram]⟩
  | write =>
    obtain ⟨s', hstep, -, ⟨hok, hin⟩ | ⟨hoob, hout⟩⟩ := step_write hp ht
    · exact ⟨s', hstep, by simp [hok, hin]⟩
    · have hbelow : t.addr.toNat < 0x6000 := by simpa [hram] using hout
      exact ⟨s', hstep, by simp [hoob, hbelow]⟩

/-- Settles O4: construction fails in its first case and not in its second. -/
theorem constructionRefusesBadLengths : Obligations.ConstructionRefusesBadLengths := by
  unfold Obligations.ConstructionRefusesBadLengths
  intro bytes init sink
  obtain ⟨hbad, h⟩ | ⟨hgood, s, h⟩ := construct_cases bytes init sink
  · exact iff_of_true h hbad
  · exact iff_of_false (by rw [h]; nofun) hgood

end Sys2Proof.Proofs
end

section
/-! Words, transactions and operations (30_encoding.md R50, R60, R61). A word is its transaction, and the operation a
transaction decodes to is well-formed, runs at the `count` it was decoded with, and is that transaction again. The
operation table tests a word by masks; each mask of it compares leading bits of the word, and bit 7 where it has it. -/

namespace Sys2Proof.Proofs

open Sys2Proof.Machine Sys2Proof.Laws

/-! ### Words and transactions -/

/-- The transaction in the bits of a number, whatever stands above bit 24 (R50). -/
def wordTxn (w : Nat) : Txn :=
  ⟨if w / 2 ^ 24 = 1 then .write else .read, BitVec.ofNat 16 (w / 2 ^ 8), BitVec.ofNat 8 w⟩

theorem ofWord_of_lt {w : Nat} (hw : w < 2 ^ 25) : Txn.ofWord w = .ok (wordTxn w) := if_pos hw

theorem decodeWord_of_lt (c : Fin 5) {w : Nat} (hw : w < 2 ^ 25) :
    decodeWord c w = .ok (decode c (wordTxn w)) := by
  rw [decodeWord, ofWord_of_lt hw]

theorem decodeWord_of_ge (c : Fin 5) {w : Nat} (hw : 2 ^ 25 ≤ w) :
    decodeWord c w = .error .widerThanTransaction := by
  rw [decodeWord, Txn.ofWord, if_neg (by omega)]

theorem decodeWord_word (c : Fin 5) (t : Txn) : decodeWord c t.word = .ok (decode c t) := by
  rw [decodeWord, ofWord_word]

/-- Below bit 24 a word is a read, from there on a write. -/
theorem wordTxn_of_read {w : Nat} (hw : w < 2 ^ 24) :
    wordTxn w = ⟨.read, BitVec.ofNat 16 (w / 2 ^ 8), BitVec.ofNat 8 w⟩ := by
  rw [wordTxn, if_neg (by omega)]

theorem wordTxn_of_write {w : Nat} (lo : 2 ^ 24 ≤ w) (hw : w < 2 ^ 25) :
    wordTxn w = ⟨.write, BitVec.ofNat 16 (w / 2 ^ 8), BitVec.ofNat 8 w⟩ := by
  rw [wordTxn, if_pos (by omega)]

theorem word_rd (a : Addr) : (Txn.rd a).word = a.toNat * 2 ^ 8 := by
  simp [Txn.word, Txn.rd, Rw.bit]

theorem word_wr (a : Addr) (v : Byte) : (Txn.wr a v).word = 2 ^ 24 + a.toNat * 2 ^ 8 + v.toNat := by
  simp [Txn.word, Txn.wr, Rw.bit]

/-! ### What a transaction decodes to -/

/-- The read rows of R60, in the order of their addresses. -/
theorem decode_read (c : Fin 5) (a : Addr) (v : Byte) :
    decode c ⟨.read, a, v⟩ =
      if a.toNat < 0x6000 then .readOob a
      else if a.toNat < 0x8000 then .readRam a
      else if a.toNat < 0xC000 then .readRom0 a
      else .readRom1 a := by
  obtain ⟨below, ram, window0, window1, -⟩ := decodeFollowsOperationMap c a v
  split_ifs with h6 h8 hC
  · exact below h6
  · exact ram (by omega) h8
  · exact window0 (by omega) hC
  · exact window1 (by omega)

/-- The write rows of R60, in the order of their addresses. -/
theorem decode_write (c : Fin 5) (a : Addr) (v : Byte) :
    decode c ⟨.write, a, v⟩ =
      if a.toNat < 0x6000 then .writeOob a v
      else if a.toNat < 0x8000 then .writeRam a v
      else if v.toNat ≥ 0x80 then .writeReset a v
      else if c.val < 4 then .writeShift a v
      else if a.toNat / 0x2000 % 4 = 0 then .commitCtrl a v
      else if a.toNat / 0x2000 % 4 = 1 then .commitChr0 a v
      else if a.toNat / 0x2000 % 4 = 2 then .commitChr1 a v
      else .commitPrg a v := by
  obtain ⟨-, -, -, -, below, ram, -⟩ := decodeFollowsOperationMap c a v
  by_cases h6 : a.toNat < 0x6000
  · rw [if_pos h6, below h6]
  by_cases h8 : a.toNat < 0x8000
  · rw [if_neg h6, if_pos h8, ram (by omega) h8]
  · rw [if_neg h6, if_neg h8]
    exact decode_portWrite c v (by omega)

/-- A transaction decodes to a well-formed operation (R60, the address and data columns). -/
theorem decode_wellFormed (c : Fin 5) (t : Txn) : (decode c t).wellFormed = true := by
  obtain ⟨rw, a, v⟩ := t
  have ha := a.isLt
  cases rw with
  | read =>
    rw [decode_read]
    split_ifs <;> simp only [Instr.wellFormed, Bool.and_eq_true, decide_eq_true_eq] <;> omega
  | write =>
    rw [decode_write]
    split_ifs <;> simp only [Instr.wellFormed, Bool.and_eq_true, decide_eq_true_eq] <;> omega

/-- A transaction decodes to an operation that runs at this `count` (R60, the state column). -/
theorem decode_runsAt (c : Fin 5) (t : Txn) : (decode c t).runsAt c = true := by
  obtain ⟨rw, a, v⟩ := t
  have hc := c.isLt
  cases rw with
  | read => rw [decode_read]; split_ifs <;> rfl
  | write =>
    rw [decode_write]
    split_ifs <;> simp only [Instr.runsAt, decide_eq_true_eq] <;> omega

/-- The operation a read decodes to is that read, its data byte written as 0 (R50). -/
theorem txn_decode_read (c : Fin 5) (a : Addr) (v : Byte) : (decode c ⟨.read, a, v⟩).txn = .rd a := by
  rw [decode_read]
  split_ifs <;> rfl

theorem txn_decode_write (c : Fin 5) (a : Addr) (v : Byte) : (decode c ⟨.write, a, v⟩).txn = .wr a v := by
  rw [decode_write]
  split_ifs <;> rfl

/-- Decoding a word and encoding the operation gives the word back, but for the data byte of a read. -/
theorem encode_decode_wordTxn (c : Fin 5) {w : Nat} (hw : w < 2 ^ 25) :
    encode (decode c (wordTxn w)) = if w < 2 ^ 24 then w / 256 * 256 else w := by
  split_ifs with hread
  · rw [wordTxn_of_read hread, encode, txn_decode_read]
    rw [word_rd, BitVec.toNat_ofNat]
    omega
  · rw [wordTxn_of_write (by omega) hw, encode, txn_decode_write]
    rw [word_wr, BitVec.toNat_ofNat, BitVec.toNat_ofNat]
    omega

/-- The family `RoundTrip`, over all twelve operations. -/
theorem decode_txn (i : Instr) : RoundTrip.Statement i := by
  cases i with
  | readOob a => exact RoundTrip.readOob a
  | readRam a => exact RoundTrip.readRam a
  | readRom0 a => exact RoundTrip.readRom0 a
  | readRom1 a => exact RoundTrip.readRom1 a
  | writeOob a v => exact RoundTrip.writeOob a v
  | writeRam a v => exact RoundTrip.writeRam a v
  | writeReset a v => exact RoundTrip.writeReset a v
  | writeShift a v => exact RoundTrip.writeShift a v
  | commitCtrl a v => exact RoundTrip.commitCtrl a v
  | commitChr0 a v => exact RoundTrip.commitChr0 a v
  | commitChr1 a v => exact RoundTrip.commitChr1 a v
  | commitPrg a v => exact RoundTrip.commitPrg a v

/-! ### The masks of the operation table -/

/-- A mask of `n` bits from bit `k` on keeps the quotient by `2 ^ k`. -/
theorem and_leadingBits {w k n : Nat} (hw : w < 2 ^ (k + n)) :
    w &&& 2 ^ k * (2 ^ n - 1) = 2 ^ k * (w / 2 ^ k) := by
  refine Nat.eq_of_testBit_eq fun i => ?_
  rw [Nat.testBit_and, Nat.testBit_two_pow_mul, Nat.testBit_two_pow_mul, Nat.testBit_two_pow_sub_one,
    Nat.testBit_div_two_pow]
  by_cases hi : k ≤ i
  · by_cases hn : i - k < n
    · simp [hi, hn]
    · have hhigh : w.testBit i = false :=
        Nat.testBit_lt_two_pow (hw.trans_le (Nat.pow_le_pow_right (by decide) (by omega)))
      simp [hi, hhigh]
  · simp [hi]

/-- With bit 7 in the mask too, the word's bit 7 is added to what the leading bits give. -/
theorem and_leadingBits_or_bit7 {w k n : Nat} (hw : w < 2 ^ (k + n)) (hk : 7 < k) :
    w &&& (2 ^ k * (2 ^ n - 1) ||| 2 ^ 7) = 2 ^ k * (w / 2 ^ k) + w / 2 ^ 7 % 2 * 2 ^ 7 := by
  have hbit : w / 2 ^ 7 % 2 * 2 ^ 7 < 2 ^ k :=
    lt_of_lt_of_le (by omega : w / 2 ^ 7 % 2 * 2 ^ 7 < 2 ^ 8) (Nat.pow_le_pow_right (by decide) hk)
  rw [Nat.and_or_distrib_left, and_leadingBits hw, Nat.and_two_pow, Nat.toNat_testBit,
    Nat.two_pow_add_eq_or_of_lt hbit]

/-- The rows told apart by bits 24 to 22. -/
theorem applies_mask22 {m : String} {p : Nat} {cond : CountCond} {c : Fin 5} {w : Nat} (hw : w < 2 ^ 25) :
    Row.applies ⟨m, p, 0x1C00000, cond⟩ c w = true ↔ 2 ^ 22 * (w / 2 ^ 22) = p ∧ cond.holds c = true := by
  rw [Row.applies, show 0x1C00000 = 2 ^ 22 * (2 ^ 3 - 1) from rfl, and_leadingBits hw]
  simp

/-- The rows told apart by bits 24 to 21. -/
theorem applies_mask21 {m : String} {p : Nat} {cond : CountCond} {c : Fin 5} {w : Nat} (hw : w < 2 ^ 25) :
    Row.applies ⟨m, p, 0x1E00000, cond⟩ c w = true ↔ 2 ^ 21 * (w / 2 ^ 21) = p ∧ cond.holds c = true := by
  rw [Row.applies, show 0x1E00000 = 2 ^ 21 * (2 ^ 4 - 1) from rfl, and_leadingBits hw]
  simp

/-- The rows told apart by bits 24, 23 and 7. -/
theorem applies_mask23_7 {m : String} {p : Nat} {cond : CountCond} {c : Fin 5} {w : Nat} (hw : w < 2 ^ 25) :
    Row.applies ⟨m, p, 0x1800080, cond⟩ c w = true ↔
      2 ^ 23 * (w / 2 ^ 23) + w / 2 ^ 7 % 2 * 2 ^ 7 = p ∧ cond.holds c = true := by
  rw [Row.applies, show 0x1800080 = 2 ^ 23 * (2 ^ 2 - 1) ||| 2 ^ 7 from rfl,
    and_leadingBits_or_bit7 hw (by decide)]
  simp

/-- The rows told apart by bits 24 to 21 and bit 7. -/
theorem applies_mask21_7 {m : String} {p : Nat} {cond : CountCond} {c : Fin 5} {w : Nat} (hw : w < 2 ^ 25) :
    Row.applies ⟨m, p, 0x1E00080, cond⟩ c w = true ↔
      2 ^ 21 * (w / 2 ^ 21) + w / 2 ^ 7 % 2 * 2 ^ 7 = p ∧ cond.holds c = true := by
  rw [Row.applies, show 0x1E00080 = 2 ^ 21 * (2 ^ 4 - 1) ||| 2 ^ 7 from rfl,
    and_leadingBits_or_bit7 hw (by decide)]
  simp

@[simp] theorem holds_any (c : Fin 5) : CountCond.any.holds c = true := rfl

@[simp] theorem holds_below4 (c : Fin 5) : CountCond.below4.holds c = true ↔ c.val < 4 := decide_eq_true_iff

@[simp] theorem holds_is4 (c : Fin 5) : CountCond.is4.holds c = true ↔ c.val = 4 := decide_eq_true_iff

/-- Some row applies to every word (R61): the rows cover the values of bits 24 to 21, of bit 7 and of `count`. -/
theorem exists_row_applies (c : Fin 5) {w : Nat} (hw : w < 2 ^ 25) : ∃ r ∈ opcodeTable, r.applies c w = true := by
  have hc := c.isLt
  simp only [opcodeTable, List.cons_append, List.nil_append, List.mem_cons, List.not_mem_nil, or_false,
    or_and_right, exists_or, exists_eq_left, applies_mask22 hw, applies_mask21 hw, applies_mask23_7 hw,
    applies_mask21_7 hw, holds_any, holds_below4, holds_is4, and_true]
  omega

/-- A row that applies to a word names the operation it decodes to: the row's test is the range test of R60. -/
theorem mnemonic_of_row_applies {c : Fin 5} {w : Nat} (hw : w < 2 ^ 25) {r : Row} (hr : r ∈ opcodeTable)
    (h : r.applies c w = true) : r.mnemonic = (decode c (wordTxn w)).mnemonic := by
  obtain ⟨rOob, rRam, rRom0, rRom1, wOob, wRam, wReset, wShift, ctrl, chr0, chr1, prg⟩ :=
    decodeFollowsOperationMap c (BitVec.ofNat 16 (w / 2 ^ 8)) (BitVec.ofNat 8 w)
  simp only [BitVec.toNat_ofNat] at rOob rRam rRom0 rRom1 wOob wRam wReset wShift ctrl chr0 chr1 prg
  simp only [opcodeTable, List.cons_append, List.nil_append, List.mem_cons, List.not_mem_nil, or_false] at hr
  rcases hr with rfl | rfl | rfl | rfl | rfl | rfl | rfl | rfl | rfl | rfl | rfl | rfl | rfl | rfl
  · obtain ⟨hbits, -⟩ := (applies_mask22 hw).1 h
    rw [wordTxn_of_read (by omega), rOob (by omega)]
    rfl
  · obtain ⟨hbits, -⟩ := (applies_mask21 hw).1 h
    rw [wordTxn_of_read (by omega), rOob (by omega)]
    rfl
  · obtain ⟨hbits, -⟩ := (applies_mask21 hw).1 h
    rw [wordTxn_of_read (by omega), rRam (by omega) (by omega)]
    rfl
  · obtain ⟨hbits, -⟩ := (applies_mask22 hw).1 h
    rw [wordTxn_of_read (by omega), rRom0 (by omega) (by omega)]
    rfl
  · obtain ⟨hbits, -⟩ := (applies_mask22 hw).1 h
    rw [wordTxn_of_read (by omega), rRom1 (by omega)]
    rfl
  · obtain ⟨hbits, -⟩ := (applies_mask22 hw).1 h
    rw [wordTxn_of_write (by omega) hw, wOob (by omega)]
    rfl
  · obtain ⟨hbits, -⟩ := (applies_mask21 hw).1 h
    rw [wordTxn_of_write (by omega) hw, wOob (by omega)]
    rfl
  · obtain ⟨hbits, -⟩ := (applies_mask21 hw).1 h
    rw [wordTxn_of_write (by omega) hw, wRam (by omega) (by omega)]
    rfl
  · obtain ⟨hbits, -⟩ := (applies_mask23_7 hw).1 h
    rw [wordTxn_of_write (by omega) hw, wReset (by omega) (by omega)]
    rfl
  · obtain ⟨hbits, hc⟩ := (applies_mask23_7 hw).1 h
    rw [wordTxn_of_write (by omega) hw, wShift (by omega) (by omega) ((holds_below4 c).1 hc)]
    rfl
  · obtain ⟨hbits, hc⟩ := (applies_mask21_7 hw).1 h
    rw [wordTxn_of_write (by omega) hw, ctrl (by omega) (by omega) (by omega) ((holds_is4 c).1 hc)]
    rfl
  · obtain ⟨hbits, hc⟩ := (applies_mask21_7 hw).1 h
    rw [wordTxn_of_write (by omega) hw, chr0 (by omega) (by omega) (by omega) ((holds_is4 c).1 hc)]
    rfl
  · obtain ⟨hbits, hc⟩ := (applies_mask21_7 hw).1 h
    rw [wordTxn_of_write (by omega) hw, chr1 (by omega) (by omega) (by omega) ((holds_is4 c).1 hc)]
    rfl
  · obtain ⟨hbits, hc⟩ := (applies_mask21_7 hw).1 h
    rw [wordTxn_of_write (by omega) hw, prg (by omega) (by omega) ((holds_is4 c).1 hc)]
    rfl

/-! ### The obligations -/

/-- Settles O8: a word is its transaction, and the decoder answers a well-formed operation for its transaction. -/
theorem decodeEncodeRoundTrip : Obligations.DecodeEncodeRoundTrip := by
  unfold Obligations.DecodeEncodeRoundTrip
  intro c i hwf hruns
  rw [encode, decodeWord_word, decode_txn i hwf c hruns]

/-- Settles O9: the operation is the one the word's transaction decodes to. -/
theorem encodeDecodeWord : Obligations.EncodeDecodeWord := by
  unfold Obligations.EncodeDecodeWord
  intro c w
  refine ⟨fun hw => ?_, decodeWord_of_ge c⟩
  exact ⟨_, decodeWord_of_lt c hw, decode_wellFormed c _, decode_runsAt c _, encode_decode_wordTxn c hw⟩

/-- Settles O10: some row applies, and every row that does names the decoder's operation. -/
theorem opcodeTableAgreesWithDecoder : Obligations.OpcodeTableAgreesWithDecoder := by
  unfold Obligations.OpcodeTableAgreesWithDecoder
  intro c w hw
  exact ⟨_, decodeWord_of_lt c hw, exists_row_applies c hw, fun r hr => mnemonic_of_row_applies hw hr⟩

/-- Settles O6: twelve closed words, evaluated. -/
theorem decodesWrittenOutWords : Obligations.DecodesWrittenOutWords := by
  unfold Obligations.DecodesWrittenOutWords
  decide

end Sys2Proof.Proofs
end

section
/-! The step as REMY's two contracts (20_memory.md R36, 42_serial_port.md R73 to R76). The one path of the register port
is put in the model's own operations: a reset, a shift, or the commit to the register of `addr[14:13]`. A step then is the
contract of its transaction, and what the contracts do not look at, no step does. -/

namespace Sys2Proof.Proofs

open Sys2Proof.Machine Sys2Proof.Machine.State

/-! ### The register port -/

/-- The register's own part of a commit, by its number in `addr[14:13]` (R52). -/
def loadRegister : Nat → Reg5 → State → State
  | 0 => loadControl
  | 1 => loadChr0
  | 2 => loadChr1
  | _ => loadPrg

theorem shifted_lt (s : State) (v : Byte) : s.shifted v < 32 := by
  have := s.accum.isLt
  rw [shifted]
  omega

/-- The shift in bits is the shift in numbers (R55, R75). -/
theorem shiftIn_toNat_eq_shifted (s : State) (v : Byte) : (shiftIn s.accum v).toNat = s.shifted v :=
  shiftIn_toNat s.accum v

theorem ofNat_shifted (s : State) (v : Byte) : BitVec.ofNat 5 (s.shifted v) = shiftIn s.accum v := by
  rw [← shiftIn_toNat_eq_shifted, BitVec.ofNat_toNat, BitVec.setWidth_eq]

/-- A shift reads bit 0 of the data byte alone (R53, R62). -/
theorem shiftIn_congr (a : Reg5) {v v' : Byte} (h : v.toNat % 2 = v'.toNat % 2) : shiftIn a v = shiftIn a v' :=
  BitVec.eq_of_toNat_eq (by rw [shiftIn_toNat, shiftIn_toNat, h])

theorem contractSerial_reset (s : State) (a : Addr) {v : Byte} (hv : 0x80 ≤ v.toNat) :
    s.contractSerial a v = s.clearPort.resetRegisters.respond .ok none := by
  rw [contractSerial, if_pos hv]

theorem contractSerial_shift {s : State} (a : Addr) {v : Byte} (hv : v.toNat < 0x80) (hc : s.count.val < 4) :
    s.contractSerial a v = (s.shiftPort v).respond .ok none := by
  rw [contractSerial, if_neg (by omega), shiftPort, ← ofNat_shifted, shifted]
  exact if_neg (by omega)

theorem contractSerial_commit {s : State} (a : Addr) {v : Byte} (hv : v.toNat < 0x80) (hc : s.count.val = 4) :
    s.contractSerial a v = s.commit (loadRegister (a.toNat / 0x2000 % 4)) v := by
  rw [contractSerial, if_neg (by omega), commit_eq, ← ofNat_shifted, shifted]
  refine (if_pos (by omega)).trans ?_
  rcases a.toNat / 0x2000 % 4 with _ | _ | _ | r <;> rfl

/-- The three branches of a write to the port (R73): a reset, a shift, a commit. -/
theorem contractSerial_cases (s : State) (a : Addr) (v : Byte) :
    (0x80 ≤ v.toNat ∧ s.contractSerial a v = s.clearPort.resetRegisters.respond .ok none) ∨
    (v.toNat < 0x80 ∧ s.count.val < 4 ∧ s.contractSerial a v = (s.shiftPort v).respond .ok none) ∨
    (v.toNat < 0x80 ∧ s.count.val = 4 ∧
      s.contractSerial a v = s.commit (loadRegister (a.toNat / 0x2000 % 4)) v) := by
  have hc := s.count.isLt
  by_cases hv : 0x80 ≤ v.toNat
  · exact .inl ⟨hv, contractSerial_reset s a hv⟩
  have hv : v.toNat < 0x80 := Nat.not_le.1 hv
  by_cases h4 : s.count.val < 4
  · exact .inr (.inl ⟨hv, h4, contractSerial_shift a hv h4⟩)
  · have h4 : s.count.val = 4 := by omega
    exact .inr (.inr ⟨hv, h4, contractSerial_commit a hv h4⟩)

theorem contractWrite_below (s : State) {a : Addr} (v : Byte) (hi : a.toNat < 0x6000) :
    s.contractWrite a v = s.raiseOutOfBounds := by
  rw [contractWrite, if_pos hi]

theorem contractWrite_ram (s : State) {a : Addr} (v : Byte) (lo : 0x6000 ≤ a.toNat) (hi : a.toNat < 0x8000) :
    s.contractWrite a v = s.storeRam a v := by
  rw [contractWrite, if_neg (by omega), if_pos hi]

theorem contractWrite_port (s : State) {a : Addr} (v : Byte) (lo : 0x8000 ≤ a.toNat) :
    s.contractWrite a v = s.contractSerial a v := by
  rw [contractWrite, if_neg (by omega), if_neg (by omega)]

/-! ### A store without RAM -/

/-- Without RAM on the cartridge a store is the no-op or the error of RAM_ABSENT_WRITE (R72). -/
theorem storeRam_noop {s : State} (hp : s.cart.ramPresent = false) (ha : s.cart.ramAbsentWrite = .noop) (a : Addr)
    (v : Byte) : s.storeRam a v = s.respond .ok (some (ramObservation a)) := by
  simp [storeRam, hp, ha]

theorem storeRam_error {s : State} (hp : s.cart.ramPresent = false) (ha : s.cart.ramAbsentWrite = .error) (a : Addr)
    (v : Byte) : s.storeRam a v = s.raiseOutOfBounds := by
  simp [storeRam, hp, ha]

/-! ### Every operation is a contract -/

/-- Whichever of the six operations of the port a write decodes to, it is the one serial path. -/
theorem exec_decode_port (s : State) {a : Addr} (v : Byte) (lo : 0x8000 ≤ a.toNat) :
    exec (decode s.count (.wr a v)) s = .next (s.contractSerial a v) := by
  have hc := s.count.isLt
  rw [decode_portWrite s.count v lo]
  split_ifs with hv hshift h0 h1 h2
  · rw [exec_writeReset, contractSerial_reset s a hv]
  · rw [exec_writeShift, contractSerial_shift a (by omega) hshift]
  · rw [exec_commitCtrl, contractSerial_commit a (by omega) (by omega), h0]
    rfl
  · rw [exec_commitChr0, contractSerial_commit a (by omega) (by omega), h1]
    rfl
  · rw [exec_commitChr1, contractSerial_commit a (by omega) (by omega), h2]
    rfl
  · rw [exec_commitPrg, contractSerial_commit a (by omega) (by omega),
      show a.toNat / 0x2000 % 4 = 3 by omega]
    rfl

/-- Whichever operation a write decodes to, it is the `write` contract. -/
theorem exec_decode_wr (s : State) (a : Addr) (v : Byte) :
    exec (decode s.count (.wr a v)) s = .next (s.contractWrite a v) := by
  obtain ⟨-, -, -, -, below, ram, -⟩ := decodeFollowsOperationMap s.count a v
  by_cases h6 : a.toNat < 0x6000
  · rw [contractWrite_below s v h6, Txn.wr, below h6, exec_writeOob]
  by_cases h8 : a.toNat < 0x8000
  · rw [contractWrite_ram s v (by omega) h8, Txn.wr, ram (by omega) h8, exec_writeRam]
  · rw [contractWrite_port s v (by omega), exec_decode_port s v (by omega)]

theorem exec_decode_eq_contract (s : State) (t : Txn) : exec (decode s.count t) s = .next (s.contract t) := by
  obtain ⟨rw, a, v⟩ := t
  cases rw with
  | read => exact exec_decode_read s.count a v s
  | write => exact exec_decode_wr s a v

theorem step_eq_contract {s : State} {t : Txn} {rest : List Txn} (hp : s.pending = t :: rest) :
    step s = .next (State.contract t { s with pending := rest }) :=
  (step_txn hp).trans (exec_decode_eq_contract { s with pending := rest } t)

theorem step_issueNext (s : State) (t : Txn) : step (s.issueNext t) = .next (s.contract t) :=
  step_eq_contract (issueNext_pending s t)

theorem step_issueNext_rd (s : State) (a : Addr) : step (s.issueNext (.rd a)) = .next (s.contractRead a) :=
  step_issueNext s (.rd a)

theorem step_issueNext_wr (s : State) (a : Addr) (v : Byte) :
    step (s.issueNext (.wr a v)) = .next (s.contractWrite a v) :=
  step_issueNext s (.wr a v)

/-! ### What the contracts do not look at -/

/-- The port does not look at what `f` changes: from `f s` it goes where it goes from `s`, seen through `h`
afterwards. -/
structure UnseenByPort (f h : State → State) : Prop where
  count : ∀ s, (f s).count = s.count
  accum : ∀ s, (f s).accum = s.accum
  reset : ∀ s, h ((f s).clearPort.resetRegisters.respond .ok none) =
    f (s.clearPort.resetRegisters.respond .ok none)
  shift : ∀ s v, h (((f s).shiftPort v).respond .ok none) = f ((s.shiftPort v).respond .ok none)
  commit : ∀ s r v, h ((f s).commit (loadRegister r) v) = f (s.commit (loadRegister r) v)

/-- No transaction looks at what `f` changes. -/
structure UnseenByBus (f h : State → State) : Prop extends UnseenByPort f h where
  idle : ∀ s, h (f s) = f s
  pending : ∀ s ts, ({ f s with pending := ts } : State) = f { s with pending := ts }
  translate : ∀ s a, (f s).translate a = s.translate a
  ramGet : ∀ s off, (f s).ramGet off = s.ramGet off
  romGet : ∀ s off, (f s).romGet off = s.romGet off
  ramPresent : ∀ s, (f s).cart.ramPresent = s.cart.ramPresent
  ramAbsentWrite : ∀ s, (f s).cart.ramAbsentWrite = s.cart.ramAbsentWrite
  respond : ∀ s r o, h ((f s).respond r o) = f (s.respond r o)
  store : ∀ s off v r o, h (State.respond r o { f s with ram := (f s).ram.write off v }) =
    f (State.respond r o { s with ram := s.ram.write off v })

variable {f h : State → State}

theorem contractSerial_unseen (hu : UnseenByPort f h) (s : State) (a : Addr) (v : Byte) :
    h ((f s).contractSerial a v) = f (s.contractSerial a v) := by
  have hcount : (f s).count.val = s.count.val := congrArg Fin.val (hu.count s)
  obtain ⟨hv, hs⟩ | ⟨hv, h4, hs⟩ | ⟨hv, h4, hs⟩ := contractSerial_cases s a v
  · rw [hs, contractSerial_reset _ a hv, hu.reset]
  · rw [hs, contractSerial_shift a hv (hcount.trans_lt h4), hu.shift]
  · rw [hs, contractSerial_commit a hv (hcount.trans h4), hu.commit]

theorem answerRead_unseen (hu : UnseenByBus f h) (s : State) (got : Option Byte) (o : Observation) :
    h ((f s).answerRead got o) = f (s.answerRead got o) := by
  cases got with
  | none => exact hu.respond s .outOfBounds none
  | some v => exact hu.respond s (.okByte v) (some o)

theorem contractRead_unseen (hu : UnseenByBus f h) (s : State) (a : Addr) :
    h ((f s).contractRead a) = f (s.contractRead a) := by
  rw [contractRead, contractRead, hu.translate]
  cases s.translate a.toNat with
  | outOfBounds => exact hu.respond s .outOfBounds none
  | ram off => simp only [hu.ramGet, answerRead_unseen hu]
  | rom off => simp only [hu.romGet, answerRead_unseen hu]

theorem storeRam_unseen (hu : UnseenByBus f h) (s : State) (a : Addr) (v : Byte) :
    h ((f s).storeRam a v) = f (s.storeRam a v) := by
  obtain ⟨hp, hs⟩ | ⟨hp, ha, hs⟩ | ⟨hp, ha, hs⟩ := storeRam_cases s a v
  · rw [hs, storeRam_present ((hu.ramPresent s).trans hp), hu.store]
  · rw [hs, storeRam_noop ((hu.ramPresent s).trans hp) ((hu.ramAbsentWrite s).trans ha), hu.respond]
  · rw [hs, storeRam_error ((hu.ramPresent s).trans hp) ((hu.ramAbsentWrite s).trans ha)]
    exact hu.respond s .outOfBounds none

theorem contract_unseen (hu : UnseenByBus f h) (s : State) (t : Txn) :
    h ((f s).contract t) = f (s.contract t) := by
  obtain ⟨rw, a, v⟩ := t
  cases rw with
  | read => exact contractRead_unseen hu s a
  | write =>
    change h ((f s).contractWrite a v) = f (s.contractWrite a v)
    by_cases h6 : a.toNat < 0x6000
    · rw [contractWrite_below _ v h6, contractWrite_below _ v h6]
      exact hu.respond s .outOfBounds none
    by_cases h8 : a.toNat < 0x8000
    · rw [contractWrite_ram _ v (by omega) h8, contractWrite_ram _ v (by omega) h8, storeRam_unseen hu]
    · rw [contractWrite_port _ v (by omega), contractWrite_port _ v (by omega),
        contractSerial_unseen hu.toUnseenByPort]

theorem step_unseen (hu : UnseenByBus f h) (s : State) : mapNext h (step (f s)) = mapNext f (step s) := by
  have hpending := congrArg State.pending (hu.pending s s.pending)
  cases hp : s.pending with
  | nil => rw [step_idle hp, step_idle (hpending.symm.trans hp), mapNext, mapNext, hu.idle]
  | cons t rest =>
    rw [step_eq_contract hp, step_eq_contract (hpending.symm.trans hp), mapNext, mapNext, hu.pending,
      contract_unseen hu]

end Sys2Proof.Proofs
end

section
/-! The statements on the contracts: the refinement and the facade (20_memory.md R36, R48), the ignored bits (30_encoding.md
R62), and what no transaction looks at (60_exceptions.md R102, 10_state.md R17, R18, R20). -/

namespace Sys2Proof.Proofs

open Sys2Proof.Machine Sys2Proof.Machine.State

/-- Without the sink nothing else of a transaction differs (R102). -/
theorem withoutSink_unseenByBus : UnseenByBus withoutSink id where
  count _ := rfl
  accum _ := rfl
  reset _ := rfl
  shift _ _ := rfl
  commit _ r _ := by rcases r with _ | _ | _ | r <;> rfl
  idle _ := rfl
  pending _ _ := rfl
  translate _ _ := rfl
  ramGet _ _ := rfl
  romGet _ _ := rfl
  ramPresent _ := rfl
  ramAbsentWrite _ := rfl
  respond _ _ _ := rfl
  store _ _ _ _ _ := rfl

/-- No transaction reads `chrMode`, `mirror` or a CHR latch (R17, R18, R20). -/
theorem withoutLatches_unseenByBus : UnseenByBus withoutLatches withoutLatches where
  count _ := rfl
  accum _ := rfl
  reset _ := rfl
  shift _ _ := rfl
  commit _ r _ := by rcases r with _ | _ | _ | r <;> rfl
  idle _ := rfl
  pending _ _ := rfl
  translate _ _ := rfl
  ramGet _ _ := rfl
  romGet _ _ := rfl
  ramPresent _ := rfl
  ramAbsentWrite _ := rfl
  respond _ _ _ := rfl
  store _ _ _ _ _ := rfl

theorem mapNext_id (o : Host.Outcome State Fault Refusal) : mapNext id o = o := by
  cases o <;> rfl

/-- Settles O53: the sink is unseen by every transaction, so a step without it is the step with it, less the sink. -/
theorem sinkNeverFeedsBack : Obligations.SinkNeverFeedsBack := by
  unfold Obligations.SinkNeverFeedsBack
  intro s
  rw [← mapNext_id (step s.withoutSink), step_unseen withoutSink_unseenByBus]

/-- Settles O54: the latches are unseen by every transaction. -/
theorem unreadLatchesDoNotInterfere : Obligations.UnreadLatchesDoNotInterfere := by
  unfold Obligations.UnreadLatchesDoNotInterfere
  exact step_unseen withoutLatches_unseenByBus

/-- Settles O50: a step decodes and executes, and every operation the decoder answers is a contract. -/
theorem stepRefinesContracts : Obligations.StepRefinesContracts := by
  unfold Obligations.StepRefinesContracts
  intro s t rest hp
  exact step_eq_contract hp

/-- Settles O51: a virtual address is an offset of the view, and the view's `get` and `set` are the contracts. -/
theorem facadeDelegates : Obligations.FacadeDelegates := by
  unfold Obligations.FacadeDelegates
  intro s view a v
  have ha : BitVec.ofNat 16 a.toNat = a := by rw [BitVec.ofNat_toNat, BitVec.setWidth_eq]
  have hlen : ∀ w : PrgView, a.toNat < w.length := fun _ => a.isLt
  refine ⟨hlen view, ?_, ?_⟩
  · rw [step_issueNext_rd, PrgView.get, if_pos (hlen view), ha]
  · rw [step_issueNext_wr, PrgView.setMut, if_pos (hlen .prgMut), ha]

/-- The transaction in a word that decodes. -/
theorem exists_txn_of_decodeWord {c : Fin 5} {w : Nat} {i : Instr} (h : decodeWord c w = .ok i) :
    ∃ t, Txn.ofWord w = .ok t ∧ decode c t = i := by
  rw [decodeWord] at h
  cases ht : Txn.ofWord w with
  | ok t =>
    rw [ht] at h
    exact ⟨t, rfl, Except.ok.inj h⟩
  | error e =>
    rw [ht] at h
    nomatch h

/-- Settles O11: the two arms of a step, and a placed word as the oldest pending transaction. -/
theorem stepRunsDecodedTransaction : Obligations.StepRunsDecodedTransaction := by
  unfold Obligations.StepRunsDecodedTransaction
  refine ⟨fun s t rest hp => step_txn hp, fun s hp => step_idle hp, fun s nbits w i hi => ?_⟩
  obtain ⟨t, ht, rfl⟩ := exists_txn_of_decodeWord hi
  have hword : txnOfTableWord nbits w = some t := by rw [txnOfTableWord, ht]
  rw [withFetchWord_eq hword, step_txn (issueNext_pending s t)]
  rfl

/-- Settles O34: each clause compares one branch of the contracts with itself. -/
theorem ignoredBitsHaveNoEffect : Obligations.IgnoredBitsHaveNoEffect := by
  unfold Obligations.IgnoredBitsHaveNoEffect
  intro s a a' v v'
  have hcount := s.count.isLt
  rw [step_issueNext_wr, step_issueNext_wr, step_issueNext_wr, step_issueNext, step_issueNext]
  refine ⟨fun lo lo' hv hv' => ?reset, fun lo lo' hv hv' hbit hreg => ?shift, fun hi => ?below, rfl⟩
  case reset =>
    rw [contractWrite_port s v lo, contractWrite_port s v' lo', contractSerial_reset s a hv,
      contractSerial_reset s a' hv']
  case shift =>
    rw [contractWrite_port s v lo, contractWrite_port s v' lo']
    by_cases h4 : s.count.val = 4
    · rw [contractSerial_commit a hv h4, contractSerial_commit a' hv' h4, commit_eq, commit_eq, hreg h4,
        shiftIn_congr s.accum hbit]
    · rw [contractSerial_shift a hv (by omega), contractSerial_shift a' hv' (by omega), shiftPort, shiftPort,
        shiftIn_congr s.accum hbit]
  case below =>
    rw [contractWrite_below s v hi, contractWrite_below s v' hi]

end Sys2Proof.Proofs
end

section
/-! The bank-base function in numbers (43_bank_select.md R83 to R89) and the RAM offset (20_memory.md R34). Every base is a
bank of the ROM, and only banks 0 to 15 and the last one can be a base. -/

namespace Sys2Proof.Proofs

open Sys2Proof.Machine Sys2Proof.Machine.State

/-- A bank that a base can name on a ROM of `n` banks: one of the ROM, and one of 0 to 15 or the last (R89). -/
def ReachableBank (n k : Nat) : Prop := k < n ∧ (k < 16 ∨ k = n - 1)

/-- A bank index below 16, reduced `mod N`, is reachable. -/
theorem reachableBank_mod {n k : Nat} (hn : 1 ≤ n) (hk : k < 16) : ReachableBank n (k % n) :=
  ⟨Nat.mod_lt k hn, .inl ((Nat.mod_le k n).trans_lt hk)⟩

/-- Both bases are 16 KiB times a reachable bank (R83, R89). -/
theorem bases_eq_reachableBanks {n : Nat} (hn : 1 ≤ n) (mode : PrgMode) (b : BitVec 4) :
    ∃ k₀ k₁, ReachableBank n k₀ ∧ ReachableBank n k₁ ∧ bases n mode b = (k₀ * 16384, k₁ * 16384) := by
  have hb := b.isLt
  cases mode with
  | switchBoth =>
    exact ⟨_, _, reachableBank_mod hn (by omega), reachableBank_mod hn (by omega), bases_switchBoth n b⟩
  | switchFirst =>
    refine ⟨0, _, ⟨hn, .inl (by decide)⟩, reachableBank_mod hn (by omega), ?_⟩
    rw [bases_switchFirst, bankBase_eq, Nat.zero_mul]
  | switchLast =>
    exact ⟨_, _, reachableBank_mod hn (by omega), ⟨by omega, .inr rfl⟩, bases_switchLast n b⟩

/-! ### The obligations -/

/-- Settles O35: the four rows of the table. -/
theorem prgModeEncoding : Obligations.PrgModeEncoding := ⟨rfl, rfl, rfl, rfl⟩

/-- Settles O36: below `N` the reduction leaves an index as it is. -/
theorem basesFollowModeFormulas : Obligations.BasesFollowModeFormulas := by
  unfold Obligations.BasesFollowModeFormulas
  intro n b hn
  refine ⟨bases_switchBoth n b, bases_switchFirst n b, bases_switchLast n b, fun hb => ?_, fun hb => ?_⟩
  · rw [bases_switchFirst, bases_switchLast, bankBase_eq, Nat.mod_eq_of_lt hb]
    exact ⟨rfl, rfl⟩
  · rw [bases_switchBoth, bankBase_eq, bankBase_eq, Nat.mod_eq_of_lt hb, Nat.mod_eq_of_lt (by omega), Nat.succ_mul]

/-- Settles O37: a base is 16 KiB times a bank of the ROM. -/
theorem basesAreBanksOfTheRom : Obligations.BasesAreBanksOfTheRom := by
  unfold Obligations.BasesAreBanksOfTheRom
  intro n mode b hn
  obtain ⟨k₀, k₁, ⟨h₀, -⟩, ⟨h₁, -⟩, hbases⟩ := bases_eq_reachableBanks hn mode b
  rw [hbases]
  refine ⟨?_, ?_, ?_, ?_⟩ <;> dsimp only <;> omega

/-- After an index that is the last one `mod n`, the next is 0; after any other, it is one more. -/
theorem succ_mod_cases {n : Nat} (hn : 1 ≤ n) (k : Nat) :
    (k % n = n - 1 ∧ (k + 1) % n = 0) ∨ (k % n < n - 1 ∧ (k + 1) % n = k % n + 1) := by
  have hlt := Nat.mod_lt k hn
  have hmod := Nat.mod_add_mod k n 1
  rcases Nat.lt_or_ge (k % n + 1) n with h | h
  · exact .inr ⟨by omega, by rw [← hmod, Nat.mod_eq_of_lt h]⟩
  · exact .inl ⟨by omega, by rw [← hmod, show k % n + 1 = n by omega, Nat.mod_self]⟩

/-- Settles O38: the second index of the pair follows the first, which is even, so on an even `N` it is not the last. -/
theorem switchBothShowsPair : Obligations.SwitchBothShowsPair := by
  unfold Obligations.SwitchBothShowsPair
  intro n b b' hn
  simp only [bases_switchBoth, bankBase_eq]
  refine ⟨fun heven => ?even, fun hlast => ?wraps, fun hpair => by rw [hpair]⟩
  case even =>
    have hparity : b.toNat / 2 * 2 % n % 2 = 0 := by
      rw [Nat.mod_mod_of_dvd _ (Nat.dvd_of_mod_eq_zero heven), Nat.mul_mod_left]
    obtain ⟨hlast, -⟩ | ⟨-, hnext⟩ := succ_mod_cases hn (b.toNat / 2 * 2)
    · omega
    · rw [hnext, Nat.succ_mul]
  case wraps =>
    obtain ⟨-, hnext⟩ | ⟨hlt, -⟩ := succ_mod_cases hn (b.toNat / 2 * 2)
    · rw [hnext, Nat.zero_mul]
    · exact absurd (Nat.eq_of_mul_eq_mul_right (by decide) hlast) hlt.ne

/-- In the RAM window the offset in a RAM of any size is the distance from the window's base, reduced (R34). -/
theorem ramOffsetIn_window (size : Nat) {k : Nat} (hk : 0x6000 + k < 0x8000) :
    ramOffsetIn size (BitVec.ofNat 16 (0x6000 + k)) = k % size := by
  rw [ramOffsetIn, Config.ramStart_eq, BitVec.toNat_ofNat, show (0x6000 + k) % 2 ^ 16 - 0x6000 = k by omega]

/-- Settles O20: the mirror of `k` is `k + size`, and both reduce to one offset. -/
theorem smallerRamMirrors : Obligations.SmallerRamMirrors := by
  unfold Obligations.SmallerRamMirrors
  intro size k hk
  refine ⟨ramOffsetIn_window size hk, ?_, fun hmirror => ?_⟩
  · rw [ramOffset, ramOffsetIn_window _ hk, Config.ramSize_eq, Nat.mod_eq_of_lt (by omega)]
  · rw [ramOffsetIn_window size hk, Nat.add_assoc, ramOffsetIn_window size (by omega), Nat.add_mod_right]

end Sys2Proof.Proofs
end

section
/-! Power-on (10_state.md R27, 70_reset_and_hazards.md R108): at reset and after construction the block is in the power-on
state, which meets the invariant as soon as its cartridge and RAM do. -/

namespace Sys2Proof.Proofs

open Sys2Proof.Machine Sys2Proof.Machine.State

/-- A cartridge of at least one bank, with canonical memories, powers on in the invariant (R22). -/
theorem inv_powerOn {cart : Cart} {ram : Memory} (hn : 1 ≤ cart.romBanks)
    (hmem : (powerOn cart ram).MemoriesWf) : (powerOn cart ram).Inv :=
  ⟨hn, rfl, rfl, hmem⟩

/-- Construction from a good image is power-on of its cartridge (R108). -/
theorem construct_eq_powerOn {bytes : List Byte} (init : Nat → Byte) (sink : Bool) (h0 : bytes.length ≠ 0)
    (hmod : bytes.length % 16384 = 0) :
    construct bytes init sink = .next (powerOn
      ⟨bytes.length / 16384, Memory.ofBytes bytes, true, .noop, sink⟩ (Memory.ofFn 8192 init)) := by
  rw [construct, if_neg (by simp [h0, hmod])]
  rfl

/-- A region made of a function gives the function's bytes, and nothing beyond its length. -/
theorem get_ofFn (size : Nat) (f : Nat → Byte) (off : Nat) :
    Memory.get size (Memory.ofFn size f) off = if off < size then some (f off) else none := by
  split_ifs with h
  · rw [Memory.get_eq h, Memory.read_ofFn f h]
  · exact Memory.get_none (by omega)

/-- A region made of bytes gives those bytes, and nothing beyond them (R108). -/
theorem get_ofBytes (bytes : List Byte) (off : Nat) :
    Memory.get bytes.length (Memory.ofBytes bytes) off = bytes[off]? := by
  rcases Nat.lt_or_ge off bytes.length with h | h
  · rw [Memory.get_eq h, Memory.read_ofBytes h, List.getD_eq_getElem _ _ h, List.getElem?_eq_getElem h]
  · rw [Memory.get_none h, List.getElem?_eq_none h]

/-! ### The obligations -/

/-- Settles O5: each item is what a cartridge of whole banks powers on with. -/
theorem constructionGivesPowerOn : Obligations.ConstructionGivesPowerOn := by
  unfold Obligations.ConstructionGivesPowerOn
  intro bytes init sink h0 hmod
  have hlen : bytes.length / 16384 * 16384 = bytes.length := Nat.div_mul_cancel (Nat.dvd_of_mod_eq_zero hmod)
  refine ⟨_, construct_eq_powerOn init sink h0 hmod, ?inv, rfl, rfl, ?rom, ?ram, rfl, rfl, rfl, rfl, rfl, rfl,
    powerOn_prgBase0 _ _, ?base1⟩
  case inv =>
    refine inv_powerOn (by dsimp only; omega) (powerOn_memories (Memory.ofFn_wf _ _) (Memory.ofFn_within _ _)
      (Memory.ofBytes_wf bytes) ?_)
    rw [Config.bankSize_eq, hlen]
    exact Memory.ofBytes_within bytes
  case rom =>
    intro off
    rw [romGet, romSize, powerOn_cart, Config.bankSize_eq, hlen, get_ofBytes]
  case ram =>
    intro off hoff
    rw [ramGet_eq rfl hoff, powerOn_ram, Memory.read_ofFn init hoff]
  case base1 =>
    rw [powerOn_prgBase1, Config.bankSize_eq, Nat.sub_mul, hlen, Nat.one_mul]

/-- Settles O1: each register of the power-on state. -/
theorem powerOnRegisters : Obligations.PowerOnRegisters := by
  unfold Obligations.PowerOnRegisters
  exact ⟨rfl, rfl, rfl, rfl, rfl, rfl, powerOn_prgBase0 _ _, powerOn_prgBase1 _ _, Config.romBanks_pos, rfl, rfl,
    rfl, rfl⟩

/-- Settles O2: both regions are made of the open parameters. -/
theorem powerOnMemories : Obligations.PowerOnMemories := by
  unfold Obligations.PowerOnMemories
  constructor
  · intro off
    rw [ramGet, if_pos (by rfl), reset_ram]
    exact get_ofFn Config.ramSize Config.ramInit off
  · intro off
    rw [romGet, reset_rom]
    exact get_ofFn (Config.romBanks * Config.bankSize) Config.romByte off

/-- Settles O3: the cartridge at reset has at least one bank and canonical memories. -/
theorem powerOnMeetsInvariant : Obligations.PowerOnMeetsInvariant :=
  inv_powerOn Config.romBanks_pos reset_memories

end Sys2Proof.Proofs
end

section
/-! What an operation can do to the state, said once: it answers the bus, stores a byte of RAM, or is one of the three
effects of the register port (40_read_path.md, 41_write_path.md, 42_serial_port.md). The invariant of R22 and the frames of
R10 follow case by case. -/

namespace Sys2Proof.Proofs

open Sys2Proof.Machine Sys2Proof.Machine.State

/-- The commit operation of a register, by its number (R52, R60). -/
def commitInstr : Nat → Addr → Byte → Instr
  | 0 => .commitCtrl
  | 1 => .commitChr0
  | 2 => .commitChr1
  | _ => .commitPrg

/-- What an operation leaves of a state. -/
inductive Effect (s : State) : Instr → State → Prop
  | answered (i : Instr) (r : Answer) (o : Option Observation) : Effect s i (s.respond r o)
  | stored (a : Addr) (v : Byte) : Effect s (.writeRam a v) (s.storeRam a v)
  | reset (a : Addr) (v : Byte) : Effect s (.writeReset a v) (s.clearPort.resetRegisters.respond .ok none)
  | shifted (a : Addr) (v : Byte) : Effect s (.writeShift a v) ((s.shiftPort v).respond .ok none)
  | committed (r : Nat) (a : Addr) (v : Byte) : Effect s (commitInstr r a v) (s.commit (loadRegister r) v)

theorem effect_answerRead (s : State) (i : Instr) (got : Option Byte) (o : Observation) :
    Effect s i (s.answerRead got o) := by
  obtain ⟨r, o', h⟩ := answerRead_eq_respond s got o
  exact h ▸ .answered i r o'

theorem effect_of_exec {i : Instr} {s t : State} (h : exec i s = .next t) : Effect s i t := by
  cases i with
  | readOob a => cases h; exact .answered _ .outOfBounds none
  | readRam a => cases h; exact effect_answerRead s _ _ _
  | readRom0 a => cases h; exact effect_answerRead s _ _ _
  | readRom1 a => cases h; exact effect_answerRead s _ _ _
  | writeOob a v => cases h; exact .answered _ .outOfBounds none
  | writeRam a v => cases h; exact .stored a v
  | writeReset a v => cases h; exact .reset a v
  | writeShift a v => cases h; exact .shifted a v
  | commitCtrl a v => cases h; exact .committed 0 a v
  | commitChr0 a v => cases h; exact .committed 1 a v
  | commitChr1 a v => cases h; exact .committed 2 a v
  | commitPrg a v => cases h; exact .committed 3 a v

/-- A step leaves an idle block as it is, or has the effect of the operation its transaction decodes to. -/
theorem step_effect {s t : State} (h : step s = .next t) :
    t = s ∨ ∃ tx rest, s.pending = tx :: rest ∧ Effect { s with pending := rest } (decode s.count tx) t := by
  cases hp : s.pending with
  | nil =>
    rw [step_idle hp] at h
    exact .inl (Host.Outcome.next.inj h).symm
  | cons tx rest =>
    rw [step_txn hp] at h
    exact .inr ⟨tx, rest, rfl, effect_of_exec h⟩

/-! ### What no operation, or only one, changes -/

theorem storeRam_cart (s : State) (a : Addr) (v : Byte) : (s.storeRam a v).cart = s.cart := by
  rw [storeRam_frame]

/-- A store disturbs neither the port nor a register (R71). -/
theorem samePort_storeRam (s : State) (a : Addr) (v : Byte) : s.SamePort (s.storeRam a v) := by
  rw [storeRam_frame]
  simp [SamePort]

@[simp] theorem loadRegister_cart (s : State) (r : Nat) (b : Reg5) : (loadRegister r b s).cart = s.cart := by
  rcases r with _ | _ | _ | r <;> rfl

@[simp] theorem loadRegister_ram (s : State) (r : Nat) (b : Reg5) : (loadRegister r b s).ram = s.ram := by
  rcases r with _ | _ | _ | r <;> rfl

@[simp] theorem loadRegister_pending (s : State) (r : Nat) (b : Reg5) :
    (loadRegister r b s).pending = s.pending := by
  rcases r with _ | _ | _ | r <;> rfl

theorem okKeepingMemories_commit_loadRegister (s : State) (r : Nat) (v : Byte) :
    OkKeepingMemories s (s.commit (loadRegister r) v) :=
  okKeepingMemories_commit v (loadRegister_ram s r) (loadRegister_cart s r) (loadRegister_pending s r)

variable {s t : State} {i : Instr}

/-- Every operation answers the bus alone, stores a byte, or is of the port. -/
theorem Effect.answered_or_stored_or_port (h : Effect s i t) :
    (∃ r o, t = s.respond r o) ∨ (∃ a v, i = .writeRam a v ∧ t = s.storeRam a v) ∨ OkKeepingMemories s t := by
  cases h with
  | answered _ r o => exact .inl ⟨r, o, rfl⟩
  | stored a v => exact .inr (.inl ⟨a, v, rfl, rfl⟩)
  | reset a v => exact .inr (.inr (okKeepingMemories_reset s))
  | shifted a v => exact .inr (.inr (okKeepingMemories_shift s v))
  | committed r a v => exact .inr (.inr (okKeepingMemories_commit_loadRegister s r v))

theorem Effect.cart (h : Effect s i t) : t.cart = s.cart := by
  obtain ⟨r, o, rfl⟩ | ⟨a, v, -, rfl⟩ | ⟨-, -, hcart, -⟩ := h.answered_or_stored_or_port
  · exact respond_cart s r o
  · exact storeRam_cart s a v
  · exact hcart

theorem Effect.pending (h : Effect s i t) : t.pending = s.pending := by
  obtain ⟨r, o, rfl⟩ | ⟨a, v, -, rfl⟩ | ⟨-, -, -, hpending⟩ := h.answered_or_stored_or_port
  · exact respond_pending s r o
  · exact storeRam_pending s a v
  · exact hpending

/-- The RAM changes through WRITE_RAM alone (R10). -/
theorem Effect.ram (h : Effect s i t) : t.ram = s.ram ∨ ∃ a v, i = .writeRam a v ∧ t = s.storeRam a v := by
  obtain ⟨r, o, rfl⟩ | hstored | ⟨-, hram, -, -⟩ := h.answered_or_stored_or_port
  · exact .inl rfl
  · exact .inr hstored
  · exact .inl hram

/-- A store that fails, for want of RAM, only answers the bus (R72, R95). -/
theorem sameUnit_storeRam_of_failed {a : Addr} {v : Byte} (h : (s.storeRam a v).answer = some .outOfBounds) :
    s.SameUnit (s.storeRam a v) := by
  obtain ⟨-, hs⟩ | ⟨-, -, hs⟩ | ⟨-, -, hs⟩ := storeRam_cases s a v
  · rw [hs, respond_answer] at h
    nomatch h
  · exact hs ▸ sameUnit_respond s _ _
  · exact hs ▸ sameUnit_raiseOutOfBounds s

/-- An operation that fails leaves every item of R10 as it was (R95). -/
theorem Effect.sameUnit_of_failed (h : Effect s i t) (hfail : t.answer = some .outOfBounds) : s.SameUnit t := by
  obtain ⟨r, o, rfl⟩ | ⟨a, v, -, rfl⟩ | ⟨hok, -⟩ := h.answered_or_stored_or_port
  · exact sameUnit_respond s r o
  · exact sameUnit_storeRam_of_failed hfail
  · rw [hok] at hfail
    nomatch hfail

/-! ### The invariant -/

/-- The invariant is about the unit alone, the bus interface apart. -/
theorem inv_congr (h : s.SameUnit t) (hs : s.Inv) : t.Inv := by
  obtain ⟨hcart, hram, haccum, hcount, hcontrol, hbank, -, -, hbase0, hbase1⟩ := h
  simpa only [State.Inv, BasesWf, PortWf, MemoriesWf, romSize, hcart, hram, haccum, hcount, hcontrol, hbank, hbase0,
    hbase1] using hs

theorem inv_storeRam (hs : s.Inv) (a : Addr) (v : Byte) : (s.storeRam a v).Inv := by
  obtain ⟨-, h⟩ | ⟨-, -, h⟩ | ⟨-, -, h⟩ := storeRam_cases s a v
  · obtain ⟨hn, hbases, hport, hwf, hwithin, hrom⟩ := hs
    rw [h]
    exact ⟨hn, hbases, hport, Memory.write_wf hwf _ v, Memory.write_within v hwithin (ramOffset_lt a), hrom⟩
  · exact h ▸ inv_congr (sameUnit_respond s _ _) hs
  · exact h ▸ inv_congr (sameUnit_raiseOutOfBounds s) hs

theorem inv_reset (hs : s.Inv) : (s.clearPort.resetRegisters.respond .ok none).Inv := by
  obtain ⟨hn, -, -, hmem⟩ := hs
  exact ⟨hn, rfl, Nat.zero_mod _, hmem⟩

/-- Below 4 the count goes up without wrapping (R14). -/
theorem count_add_one_val {c : Fin 5} (h : c.val < 4) : (c + 1).val = c.val + 1 :=
  Fin.val_add_one_of_lt' (by omega)

/-- A shift moves the written bits down by one, and one unwritten 0 bit fewer stays below them (R81). -/
theorem portWf_shiftPort (h4 : s.count.val < 4) (hport : s.PortWf) (v : Byte) : (s.shiftPort v).PortWf := by
  rw [PortWf] at hport
  rw [PortWf, shiftPort_accum, shiftPort_count, shiftIn_toNat, count_add_one_val h4]
  obtain hc | hc | hc | hc : s.count.val = 0 ∨ s.count.val = 1 ∨ s.count.val = 2 ∨ s.count.val = 3 := by omega
  all_goals
    rw [hc] at hport ⊢
    omega

theorem inv_shift (hs : s.Inv) (h4 : s.count.val < 4) (v : Byte) : ((s.shiftPort v).respond .ok none).Inv := by
  obtain ⟨hn, hbases, hport, hmem⟩ := hs
  exact ⟨hn, hbases, portWf_shiftPort h4 hport v, hmem⟩

/-- The registers that the bases depend on are loaded with the bases recomputed (R77, R80). -/
theorem basesWf_loadRegister (hbases : s.BasesWf) (r : Nat) (b : Reg5) : (loadRegister r b s).BasesWf := by
  rcases r with _ | _ | _ | r
  · rfl
  · exact hbases
  · exact hbases
  · rfl

theorem inv_commit (hs : s.Inv) (r : Nat) (v : Byte) : (s.commit (loadRegister r) v).Inv := by
  obtain ⟨hn, hbases, -, hmem⟩ := hs
  refine ⟨?_, basesWf_loadRegister hbases r _, Nat.zero_mod _, ?_⟩
  · simpa [commit_eq] using hn
  · simpa [commit_eq, MemoriesWf, romSize] using hmem

/-- An operation at a `count` where it runs keeps the invariant (R22). -/
theorem Effect.inv (h : Effect s i t) (hruns : i.runsAt s.count = true) (hs : s.Inv) : t.Inv := by
  cases h with
  | answered _ r o => exact inv_congr (sameUnit_respond s r o) hs
  | stored a v => exact inv_storeRam hs a v
  | reset a v => exact inv_reset hs
  | shifted a v => exact inv_shift hs (of_decide_eq_true hruns) v
  | committed r a v => exact inv_commit hs r v

theorem inv_step (hs : s.Inv) (h : step s = .next t) : t.Inv := by
  obtain rfl | ⟨tx, rest, -, heffect⟩ := step_effect h
  · exact hs
  · exact heffect.inv (decode_runsAt s.count tx) hs

end Sys2Proof.Proofs
end

section
/-! The statements over all steps and all operations (10_state.md R10, R12, R22; 60_exceptions.md R95). -/

namespace Sys2Proof.Proofs

open Sys2Proof.Machine Sys2Proof.Machine.State

/-- Settles O45: by the effect of the operation, which runs at the `count` it was decoded with. -/
theorem stepKeepsInvariant : Obligations.StepKeepsInvariant := by
  unfold Obligations.StepKeepsInvariant
  exact fun s t => inv_step

/-- Settles O46: no effect has a part that writes `cart`. -/
theorem stepKeepsRomAndParameters : Obligations.StepKeepsRomAndParameters := by
  unfold Obligations.StepKeepsRomAndParameters
  intro s t h
  obtain rfl | ⟨tx, rest, -, heffect⟩ := step_effect h
  · rfl
  · exact heffect.cart

/-- Settles O44: what fails only answers the bus, and no operation takes or queues a transaction. -/
theorem failedAccessChangesNothing : Obligations.FailedAccessChangesNothing := by
  unfold Obligations.FailedAccessChangesNothing
  intro s s' t rest hp hstep hfail
  rw [step_txn hp] at hstep
  have heffect := effect_of_exec hstep
  exact ⟨heffect.sameUnit_of_failed hfail, heffect.pending⟩

/-- Settles O47: each effect writes the items its operation is named for. -/
theorem writtenOnlyByNamedOperations : Obligations.WrittenOnlyByNamedOperations := by
  unfold Obligations.WrittenOnlyByNamedOperations
  intro i s t h
  cases effect_of_exec h with
  | answered _ r o => simp
  | stored a v =>
    obtain ⟨haccum, hcount, hcontrol, hbank, hchr0, hchr1, hbase0, hbase1⟩ := samePort_storeRam s a v
    simp [Instr.mnemonic, haccum, hcount, hcontrol, hbank, hchr0, hchr1, hbase0, hbase1]
  | reset a v => simp [Instr.mnemonic]
  | shifted a v => simp [Instr.mnemonic]
  | committed r a v =>
    rcases r with _ | _ | _ | r <;> simp [commitInstr, loadRegister, commit_eq, Instr.mnemonic]

/-- Settles O48: the ROM is part of `cart`, and a store leaves every RAM byte but its own. -/
theorem memoryFrame : Obligations.MemoryFrame := by
  unfold Obligations.MemoryFrame
  intro i s t h
  have heffect := effect_of_exec h
  refine ⟨fun off => by rw [romGet, romGet, romSize, romSize, heffect.cart], fun off hoff => ?_⟩
  obtain hram | ⟨a, v, rfl, rfl⟩ := heffect.ram
  · rw [ramGet, ramGet, heffect.cart, hram]
  · exact ramGet_storeRam_other s a v (hoff a v rfl)

end Sys2Proof.Proofs
end

section
/-! The effects of the register port, operation by operation (42_serial_port.md R74 to R80): the next state of each, as an
equation. -/

namespace Sys2Proof.Proofs

open Sys2Proof.Machine Sys2Proof.Machine.State

/-! ### The committed value, in numbers -/

/-- The PRG mode bits of the committed value (R56). -/
theorem prgModeField_shiftIn (s : State) (v : Byte) :
    prgModeField (shiftIn s.accum v) = BitVec.ofNat 2 (s.shifted v / 4) := by
  apply BitVec.eq_of_toNat_eq
  rw [prgModeField_toNat, shiftIn_toNat_eq_shifted, BitVec.toNat_ofNat]

theorem chrModeField_shiftIn_toNat (s : State) (v : Byte) :
    (chrModeField (shiftIn s.accum v)).toNat = s.shifted v / 16 := by
  have := shifted_lt s v
  rw [chrModeField_toNat, shiftIn_toNat_eq_shifted]
  omega

theorem mirrorField_shiftIn_toNat (s : State) (v : Byte) :
    (mirrorField (shiftIn s.accum v)).toNat = s.shifted v % 4 := by
  rw [mirrorField_toNat, shiftIn_toNat_eq_shifted]

theorem prgBankField_shiftIn_toNat (s : State) (v : Byte) :
    (prgBankField (shiftIn s.accum v)).toNat = s.shifted v % 16 := by
  rw [prgBankField_toNat, shiftIn_toNat_eq_shifted]

/-! ### The obligations -/

/-- The bases at bank 0 in `SwitchLast` (R74). -/
theorem bases_reset (n : Nat) : bases n modeReset bankReset = (0, (n - 1) * 16384) := by
  rw [modeReset, bases_switchLast, bankBase_eq, show bankReset.toNat = 0 from rfl, Nat.zero_mod, Nat.zero_mul]

/-- Settles O22: the equation is that of `clearPort` and `resetRegisters`, with the bases of bank 0. -/
theorem resetWriteEffect : Obligations.ResetWriteEffect := by
  unfold Obligations.ResetWriteEffect
  intro s a v
  refine ⟨_, exec_writeReset s a v, ?_⟩
  rw [respond, resetRegisters, recomputeBases]
  simp only [clearPort_cart, bases_reset]
  rfl

/-- Settles O23: the registers a reset write sets are those of power-on, set again by a second one. -/
theorem resetWriteRestoresPowerOn : Obligations.ResetWriteRestoresPowerOn := by
  unfold Obligations.ResetWriteRestoresPowerOn
  intro s a a' v v'
  refine ⟨_, exec_writeReset s a v, ?_, _, exec_writeReset _ a' v', ?_⟩
  · exact ⟨rfl, rfl, rfl, rfl, rfl, rfl, rfl, rfl, rfl, rfl⟩
  · simp [SameUnit]

/-- Settles O24: the shift in numbers, and `shiftPort` as an equation. -/
theorem shiftWriteEffect : Obligations.ShiftWriteEffect := by
  unfold Obligations.ShiftWriteEffect
  intro s a v h4
  exact ⟨_, exec_writeShift s a v, shiftIn_toNat s.accum v, count_add_one_val h4, rfl⟩

/-- Settles O25: the three fields of the committed value, and `commit loadControl` as an equation. -/
theorem commitControlEffect : Obligations.CommitControlEffect := by
  unfold Obligations.CommitControlEffect
  intro s a v
  exact ⟨_, exec_commitCtrl s a v, chrModeField_shiftIn_toNat s v, congrArg prgModeOf (prgModeField_shiftIn s v),
    mirrorField_shiftIn_toNat s v, rfl, rfl⟩

/-- Settles O26: the latch takes the committed value. -/
theorem commitChr0Effect : Obligations.CommitChr0Effect := by
  unfold Obligations.CommitChr0Effect
  intro s a v
  exact ⟨_, exec_commitChr0 s a v, shiftIn_toNat_eq_shifted s v, rfl⟩

/-- Settles O27: the latch takes the committed value. -/
theorem commitChr1Effect : Obligations.CommitChr1Effect := by
  unfold Obligations.CommitChr1Effect
  intro s a v
  exact ⟨_, exec_commitChr1 s a v, shiftIn_toNat_eq_shifted s v, rfl⟩

/-- Settles O28: the low four bits of the committed value, and `commit loadPrg` as an equation. -/
theorem commitPrgEffect : Obligations.CommitPrgEffect := by
  unfold Obligations.CommitPrgEffect
  intro s a v
  exact ⟨_, exec_commitPrg s a v, prgBankField_shiftIn_toNat s v, rfl, rfl⟩

end Sys2Proof.Proofs
end

section
/-! Steps and loads of the register port (30_encoding.md R55, 42_serial_port.md R81, R82). A shift write moves the
accumulator down by one bit; a run of them leaves the number their bits spell, and the fifth write commits it. -/

namespace Sys2Proof.Proofs

open Sys2Proof.Machine Sys2Proof.Machine.State

variable {s : State} {a : Addr} {v : Byte} {rest : List Txn}

/-! ### One write to the port -/

theorem step_port (hp : s.pending = Txn.wr a v :: rest) (lo : 0x8000 ≤ a.toNat) :
    step s = .next (State.contractSerial a v { s with pending := rest }) :=
  (step_eq_contract hp).trans (congrArg Host.Outcome.next (contractWrite_port { s with pending := rest } v lo))

/-- Whichever of its three branches the serial path takes, it answers `Ok` and stores no byte (R73). -/
theorem okKeepingMemories_contractSerial (s : State) (a : Addr) (v : Byte) :
    OkKeepingMemories s (s.contractSerial a v) := by
  obtain ⟨-, hs⟩ | ⟨-, -, hs⟩ | ⟨-, -, hs⟩ := contractSerial_cases s a v
  · exact hs ▸ okKeepingMemories_reset s
  · exact hs ▸ okKeepingMemories_shift s v
  · exact hs ▸ okKeepingMemories_commit_loadRegister s _ v

theorem contractSerial_pending (s : State) (a : Addr) (v : Byte) : (s.contractSerial a v).pending = s.pending := by
  obtain ⟨-, -, -, hpending⟩ := okKeepingMemories_contractSerial s a v
  exact hpending

/-- Everything but the port and the bus interface is the same in both states. -/
abbrev SameRegisters (s t : State) : Prop :=
  t.cart = s.cart ∧ t.ram = s.ram ∧ t.control = s.control ∧ t.bankSelect = s.bankSelect ∧
  t.chrBank0 = s.chrBank0 ∧ t.chrBank1 = s.chrBank1 ∧ t.prgBase0 = s.prgBase0 ∧ t.prgBase1 = s.prgBase1

theorem SameRegisters.refl (s : State) : SameRegisters s s := ⟨rfl, rfl, rfl, rfl, rfl, rfl, rfl, rfl⟩

theorem SameRegisters.trans {s t u : State} (h : SameRegisters s t) (h' : SameRegisters t u) :
    SameRegisters s u := by
  obtain ⟨h1, h2, h3, h4, h5, h6, h7, h8⟩ := h
  obtain ⟨h1', h2', h3', h4', h5', h6', h7', h8'⟩ := h'
  exact ⟨h1'.trans h1, h2'.trans h2, h3'.trans h3, h4'.trans h4, h5'.trans h5, h6'.trans h6, h7'.trans h7,
    h8'.trans h8⟩

/-- A shift write that is not the fifth (R75). -/
theorem step_shift (hp : s.pending = Txn.wr a v :: rest) (lo : 0x8000 ≤ a.toNat) (hv : v.toNat < 0x80)
    (h4 : s.count.val < 4) :
    ∃ s', step s = .next s' ∧ s'.pending = rest ∧ s'.count.val = s.count.val + 1 ∧
      s'.accum.toNat = s.shifted v ∧ SameRegisters s s' := by
  refine ⟨_, step_port hp lo, ?_⟩
  rw [contractSerial_shift a hv (by exact h4)]
  exact ⟨rfl, count_add_one_val h4, shiftIn_toNat s.accum v, rfl, rfl, rfl, rfl, rfl, rfl, rfl, rfl⟩

/-- A commit leaves the committed value in its register and in no other (R76 to R80). -/
theorem committed_commit (s : State) (v : Byte) {r : Nat} (hr : r < 4) :
    Committed r (s.shifted v) s (s.commit (loadRegister r) v) := by
  have hlt := shifted_lt s v
  match r, hr with
  | 0, _ =>
    exact ⟨⟨(chrModeField_shiftIn_toNat s v).trans (by omega), congrArg prgModeOf (prgModeField_shiftIn s v),
      mirrorField_shiftIn_toNat s v⟩, rfl, rfl, rfl, rfl⟩
  | 1, _ => exact ⟨rfl, shiftIn_toNat_eq_shifted s v, rfl, rfl, rfl, rfl⟩
  | 2, _ => exact ⟨rfl, rfl, shiftIn_toNat_eq_shifted s v, rfl, rfl, rfl⟩
  | 3, _ => exact ⟨rfl, rfl, rfl, prgBankField_shiftIn_toNat s v, rfl⟩

/-- The fifth shift write (R76). -/
theorem step_commit (hp : s.pending = Txn.wr a v :: rest) (lo : 0x8000 ≤ a.toNat) (hv : v.toNat < 0x80)
    (h4 : s.count.val = 4) :
    ∃ s', step s = .next s' ∧ s'.pending = rest ∧ s'.count = 0 ∧ s'.accum = 0 ∧ s'.ram = s.ram ∧
      s'.cart = s.cart ∧ Committed (a.toNat / 0x2000 % 4) (s.shifted v) s s' := by
  refine ⟨_, step_port hp lo, ?_⟩
  rw [contractSerial_commit a hv (by exact h4)]
  obtain ⟨-, hram, hcart, hpending⟩ :=
    okKeepingMemories_commit_loadRegister { s with pending := rest } (a.toNat / 0x2000 % 4) v
  exact ⟨hpending, rfl, rfl, hram, hcart,
    committed_commit { s with pending := rest } v (Nat.mod_lt _ (by decide))⟩

/-- A reset write (R74). -/
theorem step_reset (hp : s.pending = Txn.wr a v :: rest) (lo : 0x8000 ≤ a.toNat) (hv : 0x80 ≤ v.toNat) :
    ∃ s', step s = .next s' ∧ s'.pending = rest ∧ s'.count = 0 ∧ s'.accum = 0 ∧ s'.bankSelect = 0 ∧
      s'.control.prgMode = .switchLast := by
  refine ⟨_, step_port hp lo, ?_⟩
  rw [contractSerial_reset _ a hv]
  exact ⟨rfl, rfl, rfl, rfl, rfl⟩

/-! ### A run of shift writes -/

/-- Every pair is a shift write to the port: an address of it and a data byte with bit 7 clear. -/
def ShiftWrites (ws : List (Addr × Byte)) : Prop := ∀ w ∈ ws, 0x8000 ≤ w.1.toNat ∧ w.2.toNat < 0x80

/-- The transactions of a list of writes. -/
def writeTxns (ws : List (Addr × Byte)) : List Txn := ws.map fun w => Txn.wr w.1 w.2

theorem accum_after_shift (acc bit bits : Nat) {k : Nat} (hk : k < 5) :
    (acc / 2 + bit * 16) / 2 ^ k + bits * 2 ^ (5 - k) =
      acc / 2 ^ (k + 1) + (bit + 2 * bits) * 2 ^ (5 - (k + 1)) := by
  obtain rfl | rfl | rfl | rfl | rfl : k = 0 ∨ k = 1 ∨ k = 2 ∨ k = 3 ∨ k = 4 := by omega
  all_goals
    norm_num
    omega

/-- Shift writes that do not reach the fifth leave their bits on top of the accumulator (R81): by induction on the
writes, each of which moves the bits before it down by one. -/
theorem run_shifts : ∀ (ws : List (Addr × Byte)) (s : State), s.count.val + ws.length ≤ 4 → ShiftWrites ws →
    s.pending = writeTxns ws ++ rest →
    ∃ s' : State, core.run ws.length s = .next s' ∧ s'.pending = rest ∧ s'.count.val = s.count.val + ws.length ∧
      s'.accum.toNat = s.accum.toNat / 2 ^ ws.length + bitsValue (ws.map Prod.snd) * 2 ^ (5 - ws.length) ∧
      SameRegisters s s' := by
  intro ws
  induction ws with
  | nil =>
    intro s _ _ hp
    refine ⟨s, core_run_zero s, hp, rfl, ?_, .refl s⟩
    simp [bitsValue]
  | cons w ws ih =>
    intro s hlen hws hp
    obtain ⟨⟨lo, hv⟩, hws⟩ := List.forall_mem_cons.1 hws
    rw [List.length_cons] at hlen
    obtain ⟨s₁, hstep, hpending, hcount, haccum, hsame⟩ := step_shift hp lo hv (by omega)
    obtain ⟨s', hrun, hpending', hcount', haccum', hsame'⟩ := ih s₁ (by omega) hws hpending
    refine ⟨s', (core_run_succ hstep _).trans hrun, hpending', ?_, ?_, hsame.trans hsame'⟩
    · rw [hcount', hcount, List.length_cons]
      omega
    · rw [haccum', haccum, shifted, List.length_cons, List.map_cons, bitsValue]
      exact accum_after_shift _ _ _ (by omega)

/-! ### A load -/

/-- A run goes on from where its first steps end. -/
theorem core_run_add {s₁ : State} : ∀ (m : Nat) {s : State}, core.run m s = .next s₁ → ∀ k,
    core.run (m + k) s = core.run k s₁ := by
  intro m
  induction m with
  | zero =>
    intro s h k
    cases h
    rw [Nat.zero_add]
  | succ m ih =>
    intro s h k
    obtain ⟨s₀, hstep⟩ := step_eq_next s
    rw [core_run_succ hstep] at h
    rw [Nat.add_right_comm, core_run_succ hstep, ih h]

theorem bitsValue_append_singleton (vs : List Byte) (v : Byte) :
    bitsValue (vs ++ [v]) = bitsValue vs + v.toNat % 2 * 2 ^ vs.length := by
  induction vs with
  | nil => simp [bitsValue]
  | cons u vs ih =>
    rw [List.cons_append, bitsValue, ih, bitsValue, List.length_cons, Nat.pow_succ]
    ring

/-- What a commit leaves depends on the registers before it alone. -/
theorem committed_congr {r b : Nat} {s s₁ t : State} (h : SameRegisters s s₁) (hc : Committed r b s₁ t) :
    Committed r b s t := by
  obtain ⟨hcart, -, hcontrol, hbank, hchr0, hchr1, hbase0, hbase1⟩ := h
  delta Committed at hc ⊢
  rwa [← hcart, ← hcontrol, ← hbank, ← hchr0, ← hchr1, ← hbase0, ← hbase1]

/-- A serial load from an idle port: five shift writes commit their bits to the register of the fifth (R52, R55). -/
theorem run_load {ws : List (Addr × Byte)} (hcount : s.count = 0) (haccum : s.accum = 0) (hlen : ws.length = 4)
    (hws : ShiftWrites ws) (lo : 0x8000 ≤ a.toNat) (hv : v.toNat < 0x80)
    (hp : s.pending = writeTxns ws ++ Txn.wr a v :: rest) :
    ∃ s' : State, core.run 5 s = .next s' ∧ s'.pending = rest ∧ s'.count = 0 ∧ s'.accum = 0 ∧ s'.ram = s.ram ∧
      s'.cart = s.cart ∧
      Committed (a.toNat / 0x2000 % 4) (bitsValue (ws.map Prod.snd ++ [v])) s s' := by
  obtain ⟨s₄, hrun, hpending, hcount₄, haccum₄, hsame⟩ := run_shifts ws s (by simp [hcount, hlen]) hws hp
  rw [hlen] at hrun hcount₄ haccum₄
  obtain ⟨s', hstep, hpending', hcount', haccum', hram, hcart, hcommitted⟩ :=
    step_commit hpending lo hv (by simp [hcount₄, hcount])
  have hzero : s.accum.toNat = 0 := by rw [haccum]; rfl
  have hvalue : s₄.shifted v = bitsValue (ws.map Prod.snd ++ [v]) := by
    rw [bitsValue_append_singleton, List.length_map, hlen]
    rw [shifted, haccum₄, hzero]
    norm_num
  rw [hvalue] at hcommitted
  have ⟨hcart₄, hram₄, _⟩ := hsame
  exact ⟨s', (core_run_add 4 hrun 1).trans (core_run_succ hstep 0), hpending', hcount', haccum',
    hram.trans hram₄, hcart.trans hcart₄, committed_congr hsame hcommitted⟩

end Sys2Proof.Proofs
end

section
/-! The statements on the register port and its traffic (42_serial_port.md R81, R82, 70_reset_and_hazards.md R112). -/

namespace Sys2Proof.Proofs

open Sys2Proof.Machine Sys2Proof.Machine.State

/-- A block in the invariant with an idle port has an empty accumulator (R22 (e)). -/
theorem accum_eq_zero_of_idle {s : State} (hs : s.Inv) (hcount : s.count = 0) : s.accum = 0 := by
  obtain ⟨-, -, hport, -⟩ := hs
  rw [PortWf, hcount] at hport
  exact BitVec.eq_of_toNat_eq ((Nat.mod_eq_of_lt s.accum.isLt).symm.trans hport)

/-- Settles O30: a run of shift writes from an empty accumulator. -/
theorem accumulatorHoldsWrittenBits : Obligations.AccumulatorHoldsWrittenBits := by
  unfold Obligations.AccumulatorHoldsWrittenBits
  intro s ws rest hs hcount hlen hws hp
  obtain ⟨s', hrun, hpending, hcount', haccum, -, -, hsame⟩ :=
    run_shifts ws s (by simpa [hcount] using hlen) hws hp
  refine ⟨s', hrun, hpending, by simp [hcount', hcount], ?_, rfl, rfl, hsame⟩
  rw [haccum, accum_eq_zero_of_idle hs hcount]
  simp

/-- Settles O31: a load from an idle port in the invariant. -/
theorem fiveShiftWritesCommitRegister : Obligations.FiveShiftWritesCommitRegister := by
  unfold Obligations.FiveShiftWritesCommitRegister
  intro s ws a v rest hs hcount hlen hws lo hv hp
  exact run_load hcount (accum_eq_zero_of_idle hs hcount) hlen hws lo hv hp

/-- The first four writes of `LOAD r, B` (R64). -/
def loadWrites (r : Fin 4) (b : Reg5) : List (Addr × Byte) :=
  [0, 1, 2, 3].map fun k => (registerAddr r, loadByte b k)

theorem loadTxns_eq (r : Fin 4) (b : Reg5) :
    loadTxns r b = writeTxns (loadWrites r b) ++ [Txn.wr (registerAddr r) (loadByte b 4)] := rfl

theorem loadByte_lt (b : Reg5) (k : Nat) : (loadByte b k).toNat < 0x80 := by
  rw [loadByte]
  split_ifs <;> decide

theorem registerAddr_port (r : Fin 4) :
    0x8000 ≤ (registerAddr r).toNat ∧ (registerAddr r).toNat / 0x2000 % 4 = r.val := by
  revert r
  decide

theorem shiftWrites_loadWrites (r : Fin 4) (b : Reg5) : ShiftWrites (loadWrites r b) := by
  intro w hw
  obtain ⟨k, -, rfl⟩ := List.mem_map.1 hw
  exact ⟨(registerAddr_port r).1, loadByte_lt b k⟩

/-- The five data bytes of a load spell its value, bit 0 first (R55, R64). -/
theorem bitsValue_load (r : Fin 4) (b : Reg5) :
    bitsValue ((loadWrites r b).map Prod.snd ++ [loadByte b 4]) = b.toNat := by
  have h : ∀ b : Reg5, bitsValue [loadByte b 0, loadByte b 1, loadByte b 2, loadByte b 3, loadByte b 4] = b.toNat := by
    decide
  exact h b

/-- Settles O32: the reset write leaves an idle port, from which the five writes are a load. -/
theorem resetThenLoadReachesRegister : Obligations.ResetThenLoadReachesRegister := by
  unfold Obligations.ResetThenLoadReachesRegister
  intro s r b rest hp
  obtain ⟨hlo, hreg⟩ := registerAddr_port r
  obtain ⟨s₁, hstep, hpending, hcount, haccum, hbank, hmode⟩ :=
    step_reset (a := 0x8000) (v := 0x80) hp (by decide) (by decide)
  replace hpending : s₁.pending = writeTxns (loadWrites r b) ++ Txn.wr (registerAddr r) (loadByte b 4) :: rest := by
    rw [hpending]
    rfl
  obtain ⟨s₂, hrun, hpending₂, hcount₂, haccum₂, -, -, hcommitted⟩ :=
    run_load hcount haccum rfl (shiftWrites_loadWrites r b) hlo (loadByte_lt b 4) hpending
  rw [bitsValue_load, hreg] at hcommitted
  exact ⟨s₁, s₂, core_run_succ hstep 0, hbank, hmode, hrun, hpending₂, hcount₂, haccum₂, hcommitted⟩

/-! ### Traffic outside the port -/

theorem isPortWrite_iff (t : Txn) : isPortWrite t = true ↔ t.rw = .write ∧ 0x8000 ≤ t.addr.toNat := by
  simp [isPortWrite]

/-- The state as the port sees it: without the RAM and the bus interface. -/
def portView (s : State) : State := { s with ram := [], pending := [], answer := none, observation := none }

/-- The port reads neither the RAM nor the bus interface. -/
theorem portView_unseenByPort : UnseenByPort portView portView where
  count _ := rfl
  accum _ := rfl
  reset _ := rfl
  shift _ _ := rfl
  commit _ r _ := by rcases r with _ | _ | _ | r <;> rfl

/-- From two states that are the same to the port, a write to it leads to two states that are the same to it. -/
theorem portView_contractSerial_congr {s u : State} (h : portView s = portView u) (a : Addr) (v : Byte) :
    portView (s.contractSerial a v) = portView (u.contractSerial a v) := by
  rw [← contractSerial_unseen portView_unseenByPort s, h, contractSerial_unseen portView_unseenByPort u]

theorem samePort_of_portView_eq {s u : State} (h : portView u = portView s) : s.SamePort u := by
  have hviews : (portView s).SamePort (portView u) := by
    rw [h]
    exact ⟨rfl, rfl, rfl, rfl, rfl, rfl, rfl, rfl⟩
  exact hviews

theorem portView_contractRead (s : State) (a : Addr) : portView (s.contractRead a) = portView s := by
  obtain ⟨r, o, h⟩ := contractRead_eq_respond s a
  rw [h]
  rfl

theorem portView_contractWrite (s : State) {a : Addr} (v : Byte) (hi : a.toNat < 0x8000) :
    portView (s.contractWrite a v) = portView s := by
  by_cases h6 : a.toNat < 0x6000
  · rw [contractWrite_below s v h6]
    rfl
  · rw [contractWrite_ram s v (by omega) hi, storeRam_frame]
    rfl

/-- Reads, RAM writes and failed accesses change nothing of what the port sees (R82). -/
theorem step_not_portWrite {s : State} {t : Txn} {rest : List Txn} (hp : s.pending = t :: rest)
    (ht : isPortWrite t = false) :
    ∃ s', step s = .next s' ∧ s'.pending = rest ∧ portView s' = portView s := by
  refine ⟨_, step_eq_contract hp, (effect_of_exec (exec_decode_eq_contract _ t)).pending, ?_⟩
  obtain ⟨rw, a, v⟩ := t
  cases rw with
  | read => exact portView_contractRead { s with pending := rest } a
  | write =>
    have hi : a.toNat < 0x8000 := by simpa [isPortWrite] using ht
    exact portView_contractWrite { s with pending := rest } v hi

/-- A write to the port keeps two states that are the same to the port so (R73). -/
theorem step_portWrite_congr {s u : State} {t : Txn} {rest rest' : List Txn} (ht : isPortWrite t = true)
    (h : portView s = portView u) (hp : s.pending = t :: rest) (hp' : u.pending = t :: rest') :
    ∃ s' u', step s = .next s' ∧ s'.pending = rest ∧ step u = .next u' ∧ u'.pending = rest' ∧
      portView s' = portView u' := by
  obtain ⟨rw, a, v⟩ := t
  obtain ⟨rfl, lo⟩ := (isPortWrite_iff _).1 ht
  exact ⟨_, _, step_port hp lo, contractSerial_pending _ a v, step_port hp' lo, contractSerial_pending _ a v,
    portView_contractSerial_congr (s := { s with pending := rest }) (u := { u with pending := rest' }) h a v⟩

/-- Dropping the other traffic from a run leads to the same port: by induction on the transactions, each of which is
of the port and in both runs, or changes nothing the port sees. -/
theorem run_filter_isPortWrite : ∀ (ts : List Txn) (s u : State), portView s = portView u → s.pending = ts →
    u.pending = ts.filter isPortWrite →
    ∃ s' u' : State, core.run ts.length s = .next s' ∧ core.run (ts.filter isPortWrite).length u = .next u' ∧
      portView s' = portView u' := by
  intro ts
  induction ts with
  | nil =>
    intro s u h _ _
    exact ⟨s, u, core_run_zero s, core_run_zero u, h⟩
  | cons t ts ih =>
    intro s u h hp hp'
    cases ht : isPortWrite t with
    | true =>
      rw [List.filter_cons_of_pos ht] at hp' ⊢
      obtain ⟨s₁, u₁, hs, hps, hu, hpu, h₁⟩ := step_portWrite_congr ht h hp hp'
      obtain ⟨s', u', hrun, hrun', h'⟩ := ih s₁ u₁ h₁ hps hpu
      exact ⟨s', u', (core_run_succ hs _).trans hrun, (core_run_succ hu _).trans hrun', h'⟩
    | false =>
      rw [List.filter_cons_of_neg (by simp [ht])] at hp' ⊢
      obtain ⟨s₁, hs, hps, h₁⟩ := step_not_portWrite hp ht
      obtain ⟨s', u', hrun, hrun', h'⟩ := ih s₁ u (h₁.trans h) hps hp'
      exact ⟨s', u', (core_run_succ hs _).trans hrun, hrun', h'⟩

/-- Settles O33: both runs start in states that are the same to the port. -/
theorem portIgnoresOtherTraffic : Obligations.PortIgnoresOtherTraffic := by
  unfold Obligations.PortIgnoresOtherTraffic
  intro s ts
  obtain ⟨s₁, s₂, hrun₁, hrun₂, h⟩ :=
    run_filter_isPortWrite ts { s with pending := ts } { s with pending := ts.filter isPortWrite } rfl rfl rfl
  exact ⟨s₁, s₂, hrun₁, hrun₂, samePort_of_portView_eq h.symm⟩

/-- Settles O29: a row per kind of transaction, each a step already described. -/
theorem countTransitionTable : Obligations.CountTransitionTable := by
  unfold Obligations.CountTransitionTable
  intro s t rest hp
  cases ht : isPortWrite t with
  | false =>
    have hnot : t.rw = .write → ¬ 0x8000 ≤ t.addr.toNat := fun hw lo => by simp [isPortWrite, hw, lo] at ht
    obtain ⟨s', hstep, -, hview⟩ := step_not_portWrite hp ht
    have hsame : s.SamePort s' := samePort_of_portView_eq hview
    exact ⟨s', hstep, fun _ => hsame, fun _ _ => hsame, fun hw lo => absurd lo (hnot hw),
      fun hw lo => absurd lo (hnot hw), fun hw lo => absurd lo (hnot hw)⟩
  | true =>
    obtain ⟨rw, a, v⟩ := t
    obtain ⟨rfl, lo⟩ := (isPortWrite_iff _).1 ht
    have hc := s.count.isLt
    by_cases hv : 0x80 ≤ v.toNat
    · obtain ⟨s', hstep, -, hcount, haccum, -⟩ := step_reset hp lo hv
      exact ⟨s', hstep, nofun, fun _ hi => absurd lo (Nat.not_le.2 hi), fun _ _ _ => ⟨hcount, haccum⟩,
        fun _ _ hv' => absurd hv (Nat.not_le.2 hv'), fun _ _ hv' => absurd hv (Nat.not_le.2 hv')⟩
    by_cases h4 : s.count.val < 4
    · obtain ⟨s', hstep, -, hcount, haccum, -, -, hsame⟩ := step_shift hp lo (Nat.not_le.1 hv) h4
      exact ⟨s', hstep, nofun, fun _ hi => absurd lo (Nat.not_le.2 hi), fun _ _ hv' => absurd hv' hv,
        fun _ _ _ _ => ⟨hcount, haccum, rfl, rfl, hsame⟩, fun _ _ _ hc' => absurd h4 (by omega)⟩
    · obtain ⟨s', hstep, -, hcount, haccum, -, -, hcommitted⟩ := step_commit hp lo (Nat.not_le.1 hv) (by omega)
      exact ⟨s', hstep, nofun, fun _ hi => absurd lo (Nat.not_le.2 hi), fun _ _ hv' => absurd hv' hv,
        fun _ _ _ h4' => absurd h4' h4, fun _ _ _ _ => ⟨hcount, haccum, hcommitted⟩⟩

end Sys2Proof.Proofs
end

section
/-! What the two memories answer (40_read_path.md R66 to R68, 20_memory.md R41). A read of the ROM answers the byte at the
base of its window plus `addr[13:0]`; a read of the RAM answers what was last stored at its offset. -/

namespace Sys2Proof.Proofs

open Sys2Proof.Machine Sys2Proof.Machine.State

variable {s : State} {a : Addr} {v : Byte} {rest : List Txn}

/-! ### The RAM window -/

theorem contractRead_below (hi : a.toNat < 0x6000) : s.contractRead a = s.raiseOutOfBounds := by
  rw [contractRead, translate_below s hi]

theorem contractRead_ram (hram : s.cart.ramPresent = true) (lo : 0x6000 ≤ a.toNat) (hi : a.toNat < 0x8000) :
    s.contractRead a = s.respond (.okByte (s.ram.read (a.toNat - 0x6000)))
      (some ⟨a, a.toNat - 0x6000, .ram, 0⟩) := by
  rw [contractRead, translate_ram s lo hi, Nat.mod_eq_of_lt (by omega)]
  simp only [ramGet_eq hram (show a.toNat - 0x6000 < 8192 by omega), answerRead]

theorem contractRead_ram_absent (hram : s.cart.ramPresent = false) (lo : 0x6000 ≤ a.toNat) (hi : a.toNat < 0x8000) :
    s.contractRead a = s.raiseOutOfBounds := by
  rw [contractRead, translate_ram s lo hi]
  simp only [ramGet_absent hram, answerRead]

/-- After a transaction a RAM byte is the one it wrote to that offset, or the byte as it was (R40, R71). -/
theorem ram_read_contract (hs : s.Inv) (hram : s.cart.ramPresent = true) {off : Nat} (hoff : off < 8192) (t : Txn) :
    (s.contract t).ram.read off =
      if t.rw = .write ∧ t.addr.toNat = 0x6000 + off then t.value else s.ram.read off := by
  obtain ⟨rw, a, v⟩ := t
  cases rw with
  | read =>
    obtain ⟨r, o, h⟩ := contractRead_eq_respond s a
    change (s.contractRead a).ram.read off = _
    rw [if_neg (by simp), h, respond_ram]
  | write =>
    change (s.contractWrite a v).ram.read off = _
    by_cases h6 : a.toNat < 0x6000
    · rw [contractWrite_below s v h6, raiseOutOfBounds_ram, if_neg (by dsimp only; omega)]
    by_cases h8 : a.toNat < 0x8000
    · obtain ⟨-, -, -, hwf, -⟩ := hs
      rw [contractWrite_ram s v (by omega) h8, storeRam_present hram, respond_ram, ramOffset_eq h8]
      by_cases heq : a.toNat = 0x6000 + off
      · rw [if_pos ⟨rfl, heq⟩, show a.toNat - 0x6000 = off by omega, Memory.read_write_same hwf]
      · rw [if_neg (fun h => heq h.2), Memory.read_write_other v (by omega)]
    · obtain ⟨-, hsame, -, -⟩ := okKeepingMemories_contractSerial s a v
      rw [contractWrite_port s v (by omega), hsame, if_neg (by dsimp only; omega)]

/-- A step keeps what `run_ram` needs, and a RAM byte it does not write. -/
theorem step_ram (hs : s.Inv) (hram : s.cart.ramPresent = true) {off : Nat} (hoff : off < 8192) {t : Txn}
    (hp : s.pending = t :: rest) :
    ∃ s', step s = .next s' ∧ s'.pending = rest ∧ s'.Inv ∧ s'.cart.ramPresent = true ∧
      s'.ram.read off = if t.rw = .write ∧ t.addr.toNat = 0x6000 + off then t.value else s.ram.read off := by
  have hstep := step_eq_contract hp
  have heffect := effect_of_exec (exec_decode_eq_contract { s with pending := rest } t)
  exact ⟨_, hstep, heffect.pending, inv_step hs hstep, (congrArg Cart.ramPresent heffect.cart).trans hram,
    ram_read_contract (s := { s with pending := rest }) hs hram hoff t⟩

/-- After any transactions a RAM byte is the latest one written to its offset (R41 (a)): by induction on them, under the
invariant that every step keeps. -/
theorem run_ram {off : Nat} (hoff : off < 8192) : ∀ (ts : List Txn) (s : State), s.Inv →
    s.cart.ramPresent = true → s.pending = ts ++ rest →
    ∃ s' : State, core.run ts.length s = .next s' ∧ s'.pending = rest ∧ s'.cart.ramPresent = true ∧
      s'.ram.read off = (latestRamWrite off ts).getD (s.ram.read off) := by
  intro ts
  induction ts with
  | nil => exact fun s _ hram hp => ⟨s, core_run_zero s, hp, hram, rfl⟩
  | cons t ts ih =>
    intro s hs hram hp
    obtain ⟨s₁, hstep, hp₁, hs₁, hram₁, hread₁⟩ := step_ram hs hram hoff hp
    obtain ⟨s', hrun, hpending, hram', hread⟩ := ih s₁ hs₁ hram₁ hp₁
    refine ⟨s', (core_run_succ hstep _).trans hrun, hpending, hram', ?_⟩
    rw [hread, hread₁, latestRamWrite]
    cases latestRamWrite off ts with
    | some w => rfl
    | none =>
      dsimp only
      split_ifs <;> rfl

theorem step_readRam (hram : s.cart.ramPresent = true) (lo : 0x6000 ≤ a.toNat) (hi : a.toNat < 0x8000)
    (hp : s.pending = Txn.rd a :: rest) :
    ∃ s', step s = .next s' ∧ s'.answer = some (.okByte (s.ram.read (a.toNat - 0x6000))) := by
  obtain ⟨s', hstep, -, -, hanswer⟩ := step_read hp rfl
  exact ⟨s', hstep, by rw [hanswer, Txn.rd, contractRead_ram hram lo hi, respond_answer]⟩

/-! ### The ROM windows -/

/-- The base of the window a ROM address lies in (R35). -/
def windowBase (s : State) (a : Addr) : Nat := if a.toNat < 0xC000 then s.prgBase0 else s.prgBase1

/-- The ROM offset of an address: `addr[13:0]` past the base of its window (R35, R36). -/
def romOffset (s : State) (a : Addr) : Nat := windowBase s a + a.toNat % 16384

theorem romOffset_window0 (lo : 0x8000 ≤ a.toNat) (hi : a.toNat < 0xC000) :
    romOffset s a = s.prgBase0 + (a.toNat - 0x8000) := by
  rw [romOffset, windowBase, if_pos hi]
  omega

theorem romOffset_window1 (lo : 0xC000 ≤ a.toNat) : romOffset s a = s.prgBase1 + (a.toNat - 0xC000) := by
  have := a.isLt
  rw [romOffset, windowBase, if_neg (by omega)]
  omega

theorem windowBase_of_bases {p : Nat × Nat} (h : (s.prgBase0, s.prgBase1) = p) (a : Addr) :
    windowBase s a = if a.toNat < 0xC000 then p.1 else p.2 := by
  subst h
  rfl

/-- Under the invariant the base of a window is 16 KiB times a reachable bank (R83, R89). -/
theorem windowBase_eq_reachableBank (hs : s.Inv) (a : Addr) :
    ∃ k, ReachableBank s.cart.romBanks k ∧ windowBase s a = k * 16384 := by
  obtain ⟨hn, hbases, -⟩ := hs
  obtain ⟨k₀, k₁, h₀, h₁, hbanks⟩ := bases_eq_reachableBanks hn s.control.prgMode s.bankSelect
  rw [windowBase_of_bases (hbases.trans hbanks)]
  split_ifs
  · exact ⟨k₀, h₀, rfl⟩
  · exact ⟨k₁, h₁, rfl⟩

theorem romOffset_lt (hs : s.Inv) (a : Addr) : romOffset s a < s.cart.romBanks * 16384 := by
  obtain ⟨k, ⟨hk, -⟩, hbase⟩ := windowBase_eq_reachableBank hs a
  rw [romOffset, hbase]
  omega

/-- The bank of an offset in a window is that of the window's base. -/
theorem romOffset_div (hs : s.Inv) (a : Addr) : romOffset s a / 16384 = windowBase s a / 16384 := by
  obtain ⟨k, -, hbase⟩ := windowBase_eq_reachableBank hs a
  rw [romOffset, hbase]
  omega

/-- A read of either ROM window, under the invariant: the byte is there (R67, R68, R92). -/
theorem contractRead_rom (hs : s.Inv) (lo : 0x8000 ≤ a.toNat) :
    s.contractRead a = s.respond (.okByte (s.cart.rom.read (romOffset s a)))
      (some ⟨a, romOffset s a, .rom, windowBase s a / 16384⟩) := by
  have htarget : s.translate a.toNat = .rom (romOffset s a) := by
    by_cases hC : a.toNat < 0xC000
    · rw [translate_window0 s lo hC, romOffset_window0 lo hC, Nat.mod_eq_of_lt (by omega)]
    · have := a.isLt
      rw [translate_window1 s (by omega), romOffset_window1 (by omega), Nat.mod_eq_of_lt (by omega)]
  rw [contractRead, htarget, ← romOffset_div hs]
  simp only [romGet_eq (romOffset_lt hs a), answerRead]

theorem step_readRom (hs : s.Inv) (lo : 0x8000 ≤ a.toNat) (hp : s.pending = Txn.rd a :: rest) :
    ∃ s', step s = .next s' ∧ s.SameUnit s' ∧ s'.pending = rest ∧
      s'.answer = some (.okByte (s.cart.rom.read (windowBase s a + a.toNat % 16384))) := by
  obtain ⟨s', hstep, hsame, hpending, hanswer⟩ := step_read hp rfl
  exact ⟨s', hstep, hsame, hpending, by rw [hanswer, Txn.rd, contractRead_rom hs lo, respond_answer, romOffset]⟩

end Sys2Proof.Proofs
end

section
/-! The statements on reads, on what a read sees of the writes before it, and on the observation of an access. -/

namespace Sys2Proof.Proofs

open Sys2Proof.Machine Sys2Proof.Machine.State

/-- Settles O13: the byte of the RAM window, and a state that has only been answered. -/
theorem readRamAnswersByte : Obligations.ReadRamAnswersByte := by
  unfold Obligations.ReadRamAnswersByte
  intro s a lo hi hram
  exact ⟨_, (exec_readRam s lo hi).trans (congrArg Host.Outcome.next (contractRead_ram hram lo hi)), rfl, rfl⟩

/-- Settles O19: without RAM a read has no byte to answer, and a store is the no-op or the error. -/
theorem ramAbsentVariant : Obligations.RamAbsentVariant := by
  unfold Obligations.RamAbsentVariant
  intro s a v lo hi hram
  constructor
  · refine ⟨_, exec_readRam s lo hi, ?_⟩
    rw [contractRead_ram_absent hram lo hi]
    exact ⟨raiseOutOfBounds_answer s, sameUnit_raiseOutOfBounds s⟩
  · refine ⟨_, exec_writeRam s a v, ?_⟩
    cases ha : s.cart.ramAbsentWrite with
    | noop =>
      rw [storeRam_noop hram ha]
      exact ⟨sameUnit_respond s _ _, rfl⟩
    | error =>
      rw [storeRam_error hram ha]
      exact ⟨sameUnit_raiseOutOfBounds s, rfl⟩

/-- Settles O14: the first base of the invariant, and the byte at the offset of the address in the first window. -/
theorem readRomWindow0AnswersByte : Obligations.ReadRomWindow0AnswersByte := by
  unfold Obligations.ReadRomWindow0AnswersByte
  intro s a hs lo hi
  have ⟨_, hbases, _⟩ := hs
  have hbase : s.prgBase0 = (bases s.cart.romBanks s.control.prgMode s.bankSelect).1 := congrArg Prod.fst hbases
  rw [← romOffset_window0 lo hi]
  refine ⟨romOffset_lt hs a, ?_, _,
    (exec_readRom0 s lo hi).trans (congrArg Host.Outcome.next (contractRead_rom hs lo)), rfl, rfl⟩
  rw [hbase]
  cases s.control.prgMode with
  | switchBoth => exact (congrArg Prod.fst (bases_switchBoth _ _)).trans (Nat.mul_comm _ _)
  | switchFirst => exact congrArg Prod.fst (bases_switchFirst _ _)
  | switchLast => exact (congrArg Prod.fst (bases_switchLast _ _)).trans (Nat.mul_comm _ _)

/-- Settles O15: the second base of the invariant, and the byte at the offset of the address in the second window. -/
theorem readRomWindow1AnswersByte : Obligations.ReadRomWindow1AnswersByte := by
  unfold Obligations.ReadRomWindow1AnswersByte
  intro s a hs lo
  have ⟨_, hbases, _⟩ := hs
  have hbase : s.prgBase1 = (bases s.cart.romBanks s.control.prgMode s.bankSelect).2 := congrArg Prod.snd hbases
  rw [← romOffset_window1 lo]
  refine ⟨romOffset_lt hs a, ?_, _,
    (exec_readRom1 s lo).trans (congrArg Host.Outcome.next (contractRead_rom hs (by omega))), rfl, rfl⟩
  rw [hbase]
  cases s.control.prgMode with
  | switchBoth => exact (congrArg Prod.snd (bases_switchBoth _ _)).trans (Nat.mul_comm _ _)
  | switchFirst => exact (congrArg Prod.snd (bases_switchFirst _ _)).trans (Nat.mul_comm _ _)
  | switchLast => exact (congrArg Prod.snd (bases_switchLast _ _)).trans (Nat.mul_comm _ _)

/-- Settles O40: the base of the window is that of a reachable bank. -/
theorem reachableBanks : Obligations.ReachableBanks := by
  unfold Obligations.ReachableBanks
  intro s a rest hs lo hp
  obtain ⟨k, ⟨hlt, hreach⟩, hbase⟩ := windowBase_eq_reachableBank hs a
  obtain ⟨s', hstep, -, -, hanswer⟩ := step_readRom hs lo hp
  exact ⟨s', k, hstep, hlt, hreach, hbase ▸ hanswer⟩

/-- With one bank both windows start at offset 0 (R107). -/
theorem windowBase_of_single_bank {s : State} (hs : s.Inv) (hone : s.cart.romBanks = 1) (a : Addr) :
    windowBase s a = 0 := by
  obtain ⟨k, ⟨hlt, -⟩, hbase⟩ := windowBase_eq_reachableBank hs a
  rw [hbase, show k = 0 by omega, Nat.zero_mul]

/-- Settles O39: both reads are of offset `w` past the base 0, and the first leaves the unit as it was. -/
theorem singleBankWindowsAgree : Obligations.SingleBankWindowsAgree := by
  unfold Obligations.SingleBankWindowsAgree
  intro s w rest hs hone hw hp
  have h0 : (BitVec.ofNat 16 (0x8000 + w)).toNat = 0x8000 + w := by rw [BitVec.toNat_ofNat]; omega
  have h1 : (BitVec.ofNat 16 (0xC000 + w)).toNat = 0xC000 + w := by rw [BitVec.toNat_ofNat]; omega
  obtain ⟨s₁, hstep₁, hsame, hp₁, hanswer₁⟩ := step_readRom hs (by omega) hp
  have hs₁ := inv_congr hsame hs
  obtain ⟨hcart, -⟩ := hsame
  obtain ⟨s₂, hstep₂, -, -, hanswer₂⟩ := step_readRom hs₁ (by omega) hp₁
  rw [windowBase_of_single_bank hs hone, h0, show 0 + (0x8000 + w) % 16384 = w by omega] at hanswer₁
  rw [windowBase_of_single_bank hs₁ (by rw [hcart, hone]), h1, hcart,
    show 0 + (0xC000 + w) % 16384 = w by omega] at hanswer₂
  exact ⟨s₁, s₂, hstep₁, hstep₂, hanswer₁, hanswer₂.trans hanswer₁.symm⟩

/-- A fifth shift write and then a ROM read: the read sees the bases that the commit left (R44). -/
theorem step_commit_step_readRom {s : State} {a r : Addr} {v : Byte} {rest : List Txn} (hs : s.Inv)
    (h4 : s.count.val = 4) (hv : v.toNat < 0x80) (hr : 0x8000 ≤ r.toNat) (lo : 0x8000 ≤ a.toNat)
    (hp : s.pending = Txn.wr a v :: Txn.rd r :: rest) :
    ∃ s₁ s₂, step s = .next s₁ ∧ step s₁ = .next s₂ ∧
      Committed (a.toNat / 0x2000 % 4) (s.shifted v) s s₁ ∧
      s₂.answer = some (.okByte (s.cart.rom.read (windowBase s₁ r + r.toNat % 16384))) := by
  obtain ⟨s₁, hstep₁, hp₁, -, -, -, hcart, hcommitted⟩ := step_commit hp lo hv h4
  obtain ⟨s₂, hstep₂, -, -, hanswer⟩ := step_readRom (inv_step hs hstep₁) hr hp₁
  exact ⟨s₁, s₂, hstep₁, hstep₂, hcommitted, hcart ▸ hanswer⟩

/-- Settles O41: both commits recompute the bases, from the register each has loaded. -/
theorem readAfterCommitUsesNewBases : Obligations.ReadAfterCommitUsesNewBases := by
  unfold Obligations.ReadAfterCommitUsesNewBases
  intro s a r v rest hs h4 hv hr hp
  constructor
  · intro lo
    have := a.isLt
    obtain ⟨s₁, s₂, hstep₁, hstep₂, hcommitted, hanswer⟩ := step_commit_step_readRom hs h4 hv hr (by omega) hp
    rw [show a.toNat / 0x2000 % 4 = 3 by omega] at hcommitted
    obtain ⟨hcontrol, -, -, hbank, hbases⟩ := hcommitted
    replace hbank : s₁.bankSelect = BitVec.ofNat 4 (s.shifted v) :=
      BitVec.eq_of_toNat_eq (by rw [BitVec.toNat_ofNat]; exact hbank)
    replace hbases : (s₁.prgBase0, s₁.prgBase1) =
        bases s.cart.romBanks s.control.prgMode (BitVec.ofNat 4 (s.shifted v)) := by
      rw [← hbank, ← show s₁.control = s.control from hcontrol]
      exact hbases
    exact ⟨s₁, s₂, hstep₁, hstep₂, windowBase_of_bases hbases r ▸ hanswer⟩
  · intro lo hi
    obtain ⟨s₁, s₂, hstep₁, hstep₂, hcommitted, hanswer⟩ := step_commit_step_readRom hs h4 hv hr lo hp
    rw [show a.toNat / 0x2000 % 4 = 0 by omega] at hcommitted
    obtain ⟨⟨-, hmode, -⟩, -, -, hbank, hbases⟩ := hcommitted
    replace hbases : (s₁.prgBase0, s₁.prgBase1) =
        bases s.cart.romBanks (prgModeOf (BitVec.ofNat 2 (s.shifted v / 4))) s.bankSelect := by
      rw [← hmode, ← show s₁.bankSelect = s.bankSelect from hbank]
      exact hbases
    exact ⟨s₁, s₂, hstep₁, hstep₂, windowBase_of_bases hbases r ▸ hanswer⟩

/-- Settles O49: the transactions before the read leave the latest byte at its offset, and the read answers it. -/
theorem ramReadReturnsLatestWrite : Obligations.RamReadReturnsLatestWrite := by
  unfold Obligations.RamReadReturnsLatestWrite
  intro s ts off hs hram hoff hp
  have haddr : (BitVec.ofNat 16 (0x6000 + off)).toNat = 0x6000 + off := by rw [BitVec.toNat_ofNat]; omega
  obtain ⟨s₁, hrun, hp₁, hram₁, hread⟩ := run_ram hoff ts s hs hram hp
  obtain ⟨s', hstep, hanswer⟩ := step_readRam hram₁ (by omega) (by omega) hp₁
  rw [haddr, Nat.add_sub_cancel_left, hread] at hanswer
  exact ⟨s', (core_run_add _ hrun 1).trans (core_run_succ hstep 0), hanswer⟩

/-! ### The observation -/

/-- A write to the port shows the sink nothing, in each of its three branches (R102, D18). -/
theorem contractSerial_observation (s : State) (a : Addr) (v : Byte) : (s.contractSerial a v).observation = none := by
  obtain ⟨-, hs⟩ | ⟨-, -, hs⟩ | ⟨-, -, hs⟩ := contractSerial_cases s a v
  · simp [hs]
  · simp [hs]
  · simp [hs, commit_eq]

/-- An attached sink is shown what a transaction emits (R102). -/
theorem respond_observation_of_sink {s : State} (hsink : s.cart.sink = true) (r : Answer) (o : Option Observation) :
    (s.respond r o).observation = o := by
  rw [respond_observation, hsink, cond_true]

/-- Settles O52: each clause is the observation of one branch of the contracts. -/
theorem sinkSeesDecodedAccesses : Obligations.SinkSeesDecodedAccesses := by
  unfold Obligations.SinkSeesDecodedAccesses
  intro s a v t hs hram hsink
  rw [step_issueNext_rd, step_issueNext_wr]
  refine ⟨?readBelow, ?writeBelow, ?readRam, ?writeRam, ?readWindow0, ?readWindow1, ?port⟩
  case readBelow =>
    rintro hi ⟨⟩
    rw [contractRead_below hi, raiseOutOfBounds_observation]
  case writeBelow =>
    rintro hi ⟨⟩
    rw [contractWrite_below s v hi, raiseOutOfBounds_observation]
  case readRam =>
    rintro lo hi ⟨⟩
    rw [contractRead_ram hram lo hi, respond_observation_of_sink hsink]
  case writeRam =>
    rintro lo hi ⟨⟩
    rw [contractWrite_ram s v lo hi, storeRam_present hram, respond_observation_of_sink (by exact hsink),
      ramObservation, ramOffset_eq hi]
  case readWindow0 =>
    rintro lo hi ⟨⟩
    rw [contractRead_rom hs lo, respond_observation_of_sink hsink, romOffset_window0 lo hi, windowBase, if_pos hi]
  case readWindow1 =>
    rintro lo ⟨⟩
    rw [contractRead_rom hs (by omega), respond_observation_of_sink hsink, romOffset_window1 lo, windowBase,
      if_neg (by omega)]
  case port =>
    rintro lo ⟨⟩
    rw [contractWrite_port s v lo, contractSerial_observation]

end Sys2Proof.Proofs
end
